-- ==== Sys2Proof/Word.lean ====
section
/-! DEFINITION. The value types of the block (spec 00_scope R11, R12, R13, R16) and the six-lane container:
bytes, the fixed-width integers of the wire, binary32 patterns, binary64 values and the channel names.
The arithmetic on binary64 values is in Machine/Float.lean. -/

namespace Sys2Proof

/-- One byte of the stream (R11). -/
abbrev Byte := BitVec 8
/-- `u8`, `u16`, `u64` of the wire (R12), unsigned. -/
abbrev U8 := BitVec 8
abbrev U16 := BitVec 16
abbrev U64 := BitVec 64
/-- `i32`, `i64` (R12): two's complement, read with `BitVec.toInt`. -/
abbrev I32 := BitVec 32
abbrev I64 := BitVec 64
/-- `f32` (R13, R77): the IEEE 754 binary32 bit pattern as received; every pattern is a value, NaN patterns included. -/
abbrev F32 := BitVec 32

/-- `f64` (R13): an IEEE 754 binary64 value.  A value that is not a NaN is its sign and its low 63 bits read as
a number: the biased exponent times 2^52 plus the fraction, so that magnitudes are ordered as naturals and the
largest, 0x7FF0000000000000, is infinity.  There is one NaN, because R13 leaves the sign and payload of a NaN
unspecified and 93_implementation_defined I2 names a model with one NaN as conformant. -/
inductive F64 where
  | nan
  | num (neg : Bool) (mag : Fin 0x7FF0000000000001)
deriving DecidableEq, Repr, Inhabited

/-- The six channels in the order of R16. -/
inductive Channel where
  | ia | ib | ic | va | vb | vc
deriving DecidableEq, Repr, Inhabited

/-- Index 0 to 5 of a channel (R16). -/
def Channel.index : Channel → Nat
  | .ia => 0 | .ib => 1 | .ic => 2 | .va => 3 | .vb => 4 | .vc => 5

/-- An "array 6 of α" indexed by channel: every per-channel table of the spec has exactly six slots (R16, R36). -/
structure PerChannel (α : Type) where
  ia : α
  ib : α
  ic : α
  va : α
  vb : α
  vc : α
deriving DecidableEq, Repr, Inhabited

/-- Slot of one channel. -/
def PerChannel.get {α : Type} (t : PerChannel α) : Channel → α
  | .ia => t.ia | .ib => t.ib | .ic => t.ic | .va => t.va | .vb => t.vb | .vc => t.vc

/-- The table whose slot for channel `c` is `f c`: a loop "for c in 0..5". -/
def PerChannel.ofFn {α : Type} (f : Channel → α) : PerChannel α :=
  ⟨f .ia, f .ib, f .ic, f .va, f .vb, f .vc⟩

/-- The six slots in channel order. -/
def PerChannel.toList {α : Type} (t : PerChannel α) : List α :=
  [t.ia, t.ib, t.ic, t.va, t.vb, t.vc]

end Sys2Proof
end

