-- ==== Sys2Proof/Config.lean ====
section
/-! DEFINITION. What the spec leaves to the implementation (00_scope R9, R14).  The implementation parameters with
decided defaults are plain data and stand in `State.impl`; their defaults are here.  The three transcendental
functions and their error bound are free: opaque constants, of which nothing can be proved but what Machine/Float.lean's
wrappers impose (properties P1 to P3 of R14); property P4 is a predicate there. -/

namespace Sys2Proof

/-- `RESYNC_POLICY` (R9, R167): what happens to the rest of the parse image after a decode exception. -/
inductive ResyncPolicy where
  | discardBuffer
  | rescanFromNextByte
deriving DecidableEq, Repr, Inhabited

/-- The implementation parameters of R9 that are data.  They are parameters of the step relation, not state of the
block (R20): no operation writes them.  Every rule is stated for all their values. -/
structure ImplParams where
  /-- `MAX_FRAME_BYTES`; `none` is unbounded (R41, R182). -/
  maxFrameBytes : Option Nat
  /-- `MAX_WINDOW`; `none` is unbounded (R143). -/
  maxWindow : Option Nat
  /-- `RESYNC_POLICY` (R167). -/
  resyncPolicy : ResyncPolicy
  /-- `EST_INPUT_SCALED` (R220). -/
  estInputScaled : Bool
deriving DecidableEq, Repr, Inhabited

/-- The decided defaults (R9; 93_implementation_defined I6, I7; 92_eei_decisions D8, D10, D11, D31). -/
def Config.defaultParams : ImplParams where
  maxFrameBytes := none
  maxWindow := none
  resyncPolicy := .discardBuffer
  estInputScaled := true

/-- FREE VALUE (R14, I1): the library cosine before property P3 is imposed. -/
opaque Config.rawCos : F64 → F64
/-- FREE VALUE (R14, I1): the library sine before property P3 is imposed. -/
opaque Config.rawSin : F64 → F64
/-- FREE VALUE (R14, I1, I3): the library two-argument arctangent before property P2 is imposed. -/
opaque Config.rawAtan2 : F64 → F64 → F64

/-- FREE VALUE: `TRIG_ULPS` (R9, I1), the error bound of the three functions in units in the last place, of which R9
decides no value.  Property P4 of R14 (`Trig.Accurate`) is stated with it. -/
opaque Config.trigUlps : Nat

/-- FREE VALUE: the estimator input of a channel when INPUTS is asked for a frame while no configuration is held and
inputs are scaled.  R220 gives no result there (inside the block it cannot happen); log entry 8. -/
opaque Config.inputWithoutConfig : Channel → I32 → F64

/-- FREE VALUE: what a read beyond the last entry of a buffer or a table of the estimator gives.  Only an operand E of
which R54 I4 or R42, R43 does not hold makes such a read; log entry 12. -/
opaque Config.absentEntry : F64

/-- FREE VALUE: the `Δt` of TRACK for an operand E that holds a previous phase and no previous timestamp.  R255 gives
none there, and in the block the two flags are always equal (R260); log entry 12. -/
opaque Config.unknownDeltaT : F64

end Sys2Proof
end

