-- ==== Sys2Proof/Syntax.lean ====
section
/-! DEFINITION. The records the operations of the block take and return (10_state R31 to R37, R42 to R51) and the
operations themselves: one constructor of `Instr` per row of opcode_table.json.  An operation is a host command, a
wire frame or an internal operation (R3); its arguments are the operands the spec's rule for it lists. -/

namespace Sys2Proof

/-- Frame type of a header (R34). -/
inductive FrameType where
  | data
  | configuration
deriving DecidableEq, Repr, Inhabited

/-- P1, `nominalFrequency` (R31). -/
inductive NominalFrequency where
  | hz50
  | hz60
deriving DecidableEq, Repr, Inhabited

/-- Values of the three data-format fields (R29, R147). -/
inductive DataFormat where
  | fixedInteger
  | floatingPoint
deriving DecidableEq, Repr, Inhabited

/-- Values of the coordinate-format field (R29, R147). -/
inductive CoordinateFormat where
  | polar
  | rectangular
deriving DecidableEq, Repr, Inhabited

/-- The operand of SETFMT (R147): a format field together with a value of that field's type. -/
inductive FormatSetting where
  | phasorDataFormat (v : DataFormat)
  | phasorCoordinateFormat (v : CoordinateFormat)
  | frequencyDataFormat (v : DataFormat)
  | analogDataFormat (v : DataFormat)
deriving DecidableEq, Repr, Inhabited

/-- The four format fields of a configuration cell (R29). -/
structure Formats where
  phasorDataFormat : DataFormat
  phasorCoordinateFormat : CoordinateFormat
  frequencyDataFormat : DataFormat
  analogDataFormat : DataFormat
deriving DecidableEq, Repr, Inhabited

/-- The connection-parameter bundle, fields P0 to P16 (R31). -/
structure ParamBundle where
  /-- P0 -/
  calculatePhaseEstimates : Bool
  /-- P1 -/
  nominalFrequency : NominalFrequency
  /-- P2 -/
  calculationFrameRate : U16
  /-- P3 -/
  repeatLastCalculatedValueWhenDownSampling : Bool
  /-- P4 -/
  referenceChannel : Channel
  /-- P5 -/
  targetCycles : I32
  /-- P6 -/
  enableIntervalAveraging : Bool
  /-- P7 -/
  enablePublishEMA : Bool
  /-- P8 -/
  frequencyAlpha : F64
  /-- P9 -/
  rocofAlpha : F64
  /-- P10 to P15 -/
  tau : Vector F64 6
  /-- P16 -/
  recalculationCycles : I32
deriving DecidableEq, Repr

/-- Header record (R34).  `version` is 1 in every header HDR returns. -/
structure Header where
  frameType : FrameType
  version : U8
  frameLength : Nat
  channelID : U64
  packetCount : U16
deriving DecidableEq, Repr, Inhabited

/-- `type` of an analog definition: one value (R35, R197). -/
inductive AnalogType where
  | singlePointOnWave
deriving DecidableEq, Repr, Inhabited

/-- `type` of a phasor definition (R35, R197). -/
inductive PhasorType where
  | current
  | voltage
deriving DecidableEq, Repr, Inhabited

/-- Analog definition of a configuration cell (R35). -/
structure AnalogDef where
  name : List Byte
  scalar : F32
  type : AnalogType
deriving DecidableEq, Repr, Inhabited

/-- The one logical cell of a configuration frame (R35, R197). -/
structure ConfigCell where
  analogDef : PerChannel AnalogDef
  phasorDef : PerChannel PhasorType
  formats : Formats
deriving DecidableEq, Repr, Inhabited

/-- ConfigurationFrame record (R35).  Names are the bytes received. -/
structure ConfigurationFrame where
  header : Header
  analogCount : U16
  digitalCount : U16
  sampleRate : I32
  scalar : PerChannel F32
  stationName : List Byte
  analogName : PerChannel (List Byte)
  cell : ConfigCell
deriving DecidableEq, Repr, Inhabited

/-- A magnitude and an angle (R36). -/
structure Phasor where
  magnitude : F64
  angle : F64
deriving DecidableEq, Repr, Inhabited

/-- DataFrame record: one sample frame (R36). -/
structure DataFrame where
  header : Header
  initial : Bool
  timestamp : I64
  hasCell : Bool
  analogRaw : PerChannel I32
  phasor : PerChannel Phasor
  frequency : F64
  dFdt : F64
deriving DecidableEq, Repr, Inhabited

/-- PhaseEstimate record (R37). -/
structure PhaseEstimate where
  frequency : F64
  dFdt : F64
  angle : PerChannel F64
  magnitude : PerChannel F64
deriving DecidableEq, Repr, Inhabited

/-- EstimatedCell record (R26). -/
structure EstimatedCell where
  frequency : F64
  dFdt : F64
  phasor : PerChannel Phasor
deriving DecidableEq, Repr, Inhabited

/-- The estimator's constants and tables, fixed at construction (R43, R45, R51). -/
structure EstConstants where
  fNom : F64
  /-- samples per cycle -/
  spc : Nat
  /-- bin number -/
  k : Nat
  /-- `WindowSamples` -/
  N : Nat
  /-- recalculation interval, in samples -/
  R : Nat
  /-- publish every `M`-th step -/
  M : Nat
  /-- reference channel -/
  r : Channel
  alphaF : F64
  alphaR : F64
  twRe : F64
  twIm : F64
  magScale : F64
  period : F64
  fLo : F64
  fHi : F64
  /-- table of R43, `N` entries -/
  cosT : List F64
  /-- table of R43, `N` entries -/
  sinT : List F64
deriving DecidableEq, Repr, Inhabited

/-- The estimator's variable state (R42, R48, R49, R50).  `prevPhase` and `prevTs` are `none` exactly when their
`have` flag is false (R50). -/
structure EstVars where
  /-- circular sample buffers, `N` entries each -/
  buf : PerChannel (List F64)
  accRe : PerChannel F64
  accIm : PerChannel F64
  /-- write index -/
  wr : Nat
  /-- steps since construction or EST.RESET -/
  total : Nat
  /-- steady-state steps since the accumulators were last rebuilt -/
  sinceRecalc : Nat
  prevPhase : Option F64
  prevTs : Option I64
  smoothedFreq : F64
  freqSeeded : Bool
  rocof : F64
deriving DecidableEq, Repr, Inhabited

/-- The estimator state E (R24, R48 to R51). -/
structure Estimator where
  const : EstConstants
  vars : EstVars
deriving DecidableEq, Repr, Inhabited

/-- One host command as it stands on the command port: the code and the operand lines (R121).  The record of a line
that the command does not use is ignored.  The packing of the port is open (`PORT_BINDING`, R9, I8): the model passes
typed records. -/
structure Command where
  code : U8
  bundle : ParamBundle
  bytes : List Byte
  setting : FormatSetting
deriving DecidableEq, Repr

/-- The operations of the block: one constructor per row of opcode_table.json, in the table's order. -/
inductive Instr where
  /-- RESET (R141) -/
  | reset
  /-- START (R142) -/
  | start
  /-- LOADPARAM (R143) -/
  | loadparam (b : ParamBundle)
  /-- PARSE (R144, R161) -/
  | parse (buf : List Byte)
  /-- ESTRESET (R145) -/
  | estreset
  /-- CHKCALC (R146) -/
  | chkcalc
  /-- SETFMT (R147) -/
  | setfmt (f : FormatSetting)
  /-- DATA(IMG, p, hdr) (R210) -/
  | data (img : List Byte) (p : Nat) (h : Header)
  /-- CFG(IMG, p, hdr) (R190) -/
  | cfg (img : List Byte) (p : Nat) (h : Header)
  /-- SCAN(IMG, from) (R162) -/
  | scan (img : List Byte) (start : Nat)
  /-- HDR(IMG, p, avail) (R180) -/
  | hdr (img : List Byte) (p avail : Nat)
  /-- NAME(a) inside the frame at `p` of declared length `fl` (R193) -/
  | name (img : List Byte) (p fl a : Nat)
  /-- MAKECELL(scalar, analogName) (R197) -/
  | makecell (scalar : PerChannel F32) (analogName : PerChannel (List Byte))
  /-- ROW(IMG, p, i) (R213) -/
  | row (img : List Byte) (p i : Nat)
  /-- NEWFRAME(hdr, i, ts, raw) (R216) -/
  | newframe (h : Header) (i : Nat) (ts : I64) (raw : PerChannel I32)
  /-- APPLY(F) (R218) -/
  | apply (f : DataFrame)
  /-- INPUTS(F) (R220) -/
  | inputs (f : DataFrame)
  /-- OVERWRITE(F, est) (R221) -/
  | overwrite (f : DataFrame) (est : PhaseEstimate)
  /-- COPYFORWARD(F, cell) (R222) -/
  | copyforward (f : DataFrame) (cell : EstimatedCell)
  /-- EST.NEW(b) (R241) -/
  | estNew (b : ParamBundle)
  /-- EST.STEP(E, x, ts) (R246) -/
  | estStep (e : Estimator) (x : PerChannel F64) (ts : I64)
  /-- FILL(E, x) (R247) -/
  | fill (e : Estimator) (x : PerChannel F64)
  /-- SLIDE(E, x, old) (R249) -/
  | slide (e : Estimator) (x old : PerChannel F64)
  /-- RECOMPUTE(E) (R251) -/
  | recompute (e : Estimator)
  /-- TRACK(E, refAngle, ts) (R260) -/
  | track (e : Estimator) (refAngle : F64) (ts : I64)
  /-- EST.RESET(E) (R264) -/
  | estReset (e : Estimator)
deriving DecidableEq, Repr

/-- The three kinds of operation (R3). -/
inductive OpKind where
  | hostCommand
  | wireFrame
  | internal
deriving DecidableEq, Repr

/-- Kind of an operation (R3; column `kind` of opcode_table.json). -/
def Instr.kind : Instr → OpKind
  | .reset | .start | .loadparam _ | .parse _ | .estreset | .chkcalc | .setfmt _ => .hostCommand
  | .data _ _ _ | .cfg _ _ _ => .wireFrame
  | .scan _ _ | .hdr _ _ _ | .name _ _ _ _ | .makecell _ _ | .row _ _ _ | .newframe _ _ _ _ => .internal
  | .apply _ | .inputs _ | .overwrite _ _ | .copyforward _ _ => .internal
  | .estNew _ | .estStep _ _ _ | .fill _ _ | .slide _ _ _ | .recompute _ | .track _ _ _ | .estReset _ => .internal

end Sys2Proof
end

