-- ==== Sys2Proof/Machine/State.lean ====
section
/-! DEFINITION. The state of the block as plain data (10_state): the framer FR with the estimator inside it, the output
event sequence OUT, the transient parse context, and beside them the command port, the status a command returns, the
value an internal operation returns and the implementation parameters. -/

namespace Sys2Proof.Machine

/-- The exceptions (R301). -/
inductive Exc where
  | insufficientLength
  | unsupportedVersion
  | unknownFrameType
  | protocolMismatch
  | unsupportedFormat
  | invalidParameter
  | unsupportedOperation
  | invalidFrameLength
deriving DecidableEq, Repr, Inhabited

/-- Exception codes (R301). -/
def Exc.code : Exc → Nat
  | .insufficientLength => 1
  | .unsupportedVersion => 2
  | .unknownFrameType => 3
  | .protocolMismatch => 4
  | .unsupportedFormat => 5
  | .invalidParameter => 6
  | .unsupportedOperation => 7
  | .invalidFrameLength => 8

/-- `raise X(info)` (R15, R311): the exception and the cursor at the start of the failing frame. -/
structure Raise where
  exc : Exc
  info : Nat
deriving DecidableEq, Repr, Inhabited

/-- Events (R47). -/
inductive Event where
  | receivedConfigurationFrame (f : ConfigurationFrame)
  | receivedDataFrame (f : DataFrame)
  | parsingException (exc : Exc) (info : Nat)
deriving DecidableEq, Repr

/-- Event codes (R122). -/
def Event.code : Event → Nat
  | .receivedConfigurationFrame _ => 1
  | .receivedDataFrame _ => 2
  | .parsingException _ _ => 3

/-- `FR.sync` (R21, R160). -/
inductive Sync where
  | unsynchronized
  | synchronized
deriving DecidableEq, Repr, Inhabited

/-- The status a host command returns (R140). -/
inductive CmdStatus where
  | ok
  | error (e : Exc)
deriving DecidableEq, Repr, Inhabited

/-- The framer state FR (R21 to R26, R30).  `est` is the estimator E (R20, R24). -/
structure Framer where
  sync : Sync
  residual : List Byte
  cfg : Option ConfigurationFrame
  params : Option ParamBundle
  est : Option Estimator
  lastFrame : Option DataFrame
  lastEstCell : Option EstimatedCell
deriving DecidableEq, Repr

/-- The transient state of a PARSE in progress (R20, R27, R40): the parse image and the cursor. -/
structure ParseCtx where
  img : List Byte
  cur : Nat
deriving DecidableEq, Repr, Inhabited

/-- The value an internal operation returns to its caller (R15). -/
inductive OpResult where
  | none
  /-- SCAN: the offset, or `none` (R162) -/
  | offset (p : Option Nat)
  /-- HDR (R180) -/
  | header (h : Header)
  /-- NAME: the bytes and the offset after the field (R193) -/
  | name (s : List Byte) (next : Nat)
  /-- MAKECELL (R197) -/
  | cell (c : ConfigCell)
  /-- ROW (R213) -/
  | raw (r : PerChannel I32)
  /-- NEWFRAME, and the frame APPLY, OVERWRITE and COPYFORWARD leave (R216, R218, R221, R222) -/
  | frame (f : DataFrame)
  /-- INPUTS (R220) -/
  | inputs (x : PerChannel F64)
  /-- EST.STEP (R246) -/
  | estimate (r : Option PhaseEstimate)
deriving DecidableEq, Repr

/-- The state of the machine. -/
structure State where
  /-- FR (R20) -/
  fr : Framer
  /-- OUT, in emission order (R47) -/
  out : List Event
  /-- the parse image and cursor while a PARSE is in progress; they do not exist between commands (R27, R53) -/
  parse : Option ParseCtx
  /-- the status the last host command returned (R140); `none` before the first -/
  status : Option CmdStatus
  /-- the commands the host has still to give, in order: the program (R3, R140).  The model's own field -/
  program : List Command
  /-- what the last internal operation returned (R15).  The model's own field -/
  result : OpResult
  /-- the implementation parameters (R9): read-only -/
  impl : ImplParams
deriving DecidableEq, Repr

/-- The ways the machine stops with a fault: NONE.  Every command returns (93_implementation_defined, "Nothing in the
block is stuck"), a read outside the declared frame is the exception InsufficientLength (R79), and the estimator step
is total (R246); safe, because no meaning answers with a fault. -/
inductive Fault where
deriving DecidableEq, Repr

/-- The ways an operation is refused. -/
inductive Refusal where
  /-- Raised by exec's arm of an operation that has no meaning yet; safe: the run stops.  No arm raises it now. -/
  | notModelled (mnemonic : String)
deriving DecidableEq, Repr

/-- FR after RESET (R53, R141). -/
def Framer.reset : Framer where
  sync := .unsynchronized
  residual := []
  cfg := none
  params := none
  est := none
  lastFrame := none
  lastEstCell := none

/-- The machine at power-on, which is a RESET with an empty OUT (R53, R340); no command is waiting, and the
implementation parameters are at their decided defaults (R9). -/
def State.reset : State where
  fr := Framer.reset
  out := []
  parse := none
  status := none
  program := []
  result := .none
  impl := Config.defaultParams

/-! Field updates of FR seen from the state: every write of a meaning goes through one of these. -/

def State.setSync (s : State) (v : Sync) : State := { s with fr := { s.fr with sync := v } }
def State.setResidual (s : State) (v : List Byte) : State := { s with fr := { s.fr with residual := v } }
def State.setCfg (s : State) (v : Option ConfigurationFrame) : State := { s with fr := { s.fr with cfg := v } }
def State.setParams (s : State) (v : Option ParamBundle) : State := { s with fr := { s.fr with params := v } }
def State.setEst (s : State) (v : Option Estimator) : State := { s with fr := { s.fr with est := v } }
def State.setLastFrame (s : State) (v : Option DataFrame) : State := { s with fr := { s.fr with lastFrame := v } }
def State.setLastEstCell (s : State) (v : Option EstimatedCell) : State :=
  { s with fr := { s.fr with lastEstCell := v } }
def State.setParse (s : State) (v : Option ParseCtx) : State := { s with parse := v }
def State.setStatus (s : State) (v : CmdStatus) : State := { s with status := some v }
def State.setResult (s : State) (v : OpResult) : State := { s with result := v }
def State.setProgram (s : State) (v : List Command) : State := { s with program := v }

/-- `emit <Event>` (R15, R47): append to OUT. -/
def State.emit (s : State) (e : Event) : State := { s with out := s.out ++ [e] }

/-- The three outcomes of a step, at this machine's types. -/
abbrev Outcome := Host.Outcome State Fault Refusal

end Sys2Proof.Machine
end

