-- ==== Sys2Proof/Machine/Flags.lean ====
section
/-! DEFINITION. The one-bit conditions that steer the block (10_state R28).  All are derived from the state; none is a
register of its own, and none is written as a side effect of arithmetic. -/

namespace Sys2Proof.Machine

/-- `synced` -/
def State.synced (s : State) : Bool := decide (s.fr.sync = .synchronized)
/-- `haveCfg` -/
def State.haveCfg (s : State) : Bool := s.fr.cfg.isSome
/-- `paramValid` -/
def State.paramValid (s : State) : Bool := s.fr.params.isSome
/-- `haveEst` -/
def State.haveEst (s : State) : Bool := s.fr.est.isSome

/-- `filled`: the window has been filled (R28, R246). -/
def filled (e : Estimator) : Bool := decide (e.const.N ≤ e.vars.total)
/-- `havePrevPhase` (R50) -/
def havePrevPhase (e : Estimator) : Bool := e.vars.prevPhase.isSome
/-- `havePrevTs` (R50) -/
def havePrevTs (e : Estimator) : Bool := e.vars.prevTs.isSome
/-- `freqSeeded` (R50) -/
def freqSeeded (e : Estimator) : Bool := e.vars.freqSeeded

/-- The publish gate (R261), read after `total` has been incremented. -/
def publishes (e : Estimator) : Bool := decide ((e.vars.total - e.const.N) % e.const.M = 0)

/-- The recalculation condition of a steady-state step (R250), read after `sinceRecalc` has been incremented. -/
def recalcDue (e : Estimator) : Bool := decide (e.const.R ≤ e.vars.sinceRecalc)

end Sys2Proof.Machine
end

