-- ==== Sys2Proof/Decode.lean ====
section
/-! DEFINITION. The decoder, total on any command word and on any bytes, and after it the encoder.  Host commands are
decoded from the code of R121, wire frames from the first two bytes of the frame (R113); internal operations have no
encoding (R3).  The big-endian byte primitives of 20_memory (R72, R74 to R78) stand first. -/

namespace Sys2Proof

/-- The unsigned integer a byte string spells, most significant byte first (R72, R74). -/
def beNat : List Byte → Nat
  | [] => 0
  | b :: rest => b.toNat * 256 ^ rest.length + beNat rest

/-- `MemRead(a, n)` on an image whose bounds have been checked (R74). -/
def beAt (img : List Byte) (a n : Nat) : Nat := beNat ((img.drop a).take n)

/-- `be_u8`, `be_u16`, `be_u32`, `be_u64` (R75). -/
def beU8 (img : List Byte) (a : Nat) : U8 := BitVec.ofNat 8 (beAt img a 1)
def beU16 (img : List Byte) (a : Nat) : U16 := BitVec.ofNat 16 (beAt img a 2)
def beU32 (img : List Byte) (a : Nat) : Nat := beAt img a 4
def beU64 (img : List Byte) (a : Nat) : U64 := BitVec.ofNat 64 (beAt img a 8)

/-- The fields of the 16-byte header at `p` (R101, R110), checked by nobody yet. -/
def readHeader (img : List Byte) (p : Nat) : Header where
  frameType := if beU8 img p = 0x00#8 then .data else .configuration
  version := beU8 img (p + 1)
  frameLength := beU32 img (p + 2) + 6
  channelID := beU64 img (p + 6)
  packetCount := beU16 img (p + 14)

/-- Why the decoder rejects (R115, R116, R148, R181). -/
inductive DecodeError where
  /-- a command code that is reserved: 0x00, 0x08 to 0xFF (R148) -/
  | reservedCommand (code : U8)
  /-- fewer than 16 bytes where a header is expected (R181) -/
  | shortHeader
  /-- version byte other than 0x01 (R116) -/
  | unsupportedVersion (b : U8)
  /-- frame type byte 0x02 to 0xFF (R115) -/
  | unknownFrameType (b : U8)
deriving DecidableEq, Repr

/-- Host command codes (R121, R148). -/
def decodeCommand (c : Command) : Except DecodeError Instr :=
  match c.code.toNat with
  | 0x01 => .ok .reset
  | 0x02 => .ok .start
  | 0x03 => .ok (.loadparam c.bundle)
  | 0x04 => .ok (.parse c.bytes)
  | 0x05 => .ok .estreset
  | 0x06 => .ok .chkcalc
  | 0x07 => .ok (.setfmt c.setting)
  | _ => .error (.reservedCommand c.code)

/-- The wire frame at `p`: its first two bytes, and nothing else, select the operation (R113); the order of the
checks is that of R181. -/
def decodeFrame (img : List Byte) (p : Nat) : Except DecodeError Instr :=
  if img.length - p < 16 then .error .shortHeader
  else if beU8 img (p + 1) ≠ 0x01#8 then .error (.unsupportedVersion (beU8 img (p + 1)))
  else if beU8 img p = 0x00#8 then .ok (.data img p (readHeader img p))
  else if beU8 img p = 0x01#8 then .ok (.cfg img p (readHeader img p))
  else .error (.unknownFrameType (beU8 img p))

/-- What can be decoded: a word of the command port, or the frame at an offset of a parse image. -/
inductive Encoding where
  | command (c : Command)
  | frame (img : List Byte) (p : Nat)
deriving DecidableEq, Repr

/-- The decoder (R113, R121). -/
def decode : Encoding → Except DecodeError Instr
  | .command c => decodeCommand c
  | .frame img p => decodeFrame img p

/-! The encoder. -/

/-- The operand lines when a command drives none of them: every field at the zero of its type, enumerations at the
value the spec numbers or lists first. -/
def ParamBundle.idle : ParamBundle where
  calculatePhaseEstimates := false
  nominalFrequency := .hz50
  calculationFrameRate := 0
  repeatLastCalculatedValueWhenDownSampling := false
  referenceChannel := .ia
  targetCycles := 0
  enableIntervalAveraging := false
  enablePublishEMA := false
  frequencyAlpha := .num false 0
  rocofAlpha := .num false 0
  tau := Vector.replicate 6 (.num false 0)
  recalculationCycles := 0

/-- A command word with code `c` and every operand line idle. -/
def Command.ofCode (c : U8) : Command where
  code := c
  bundle := ParamBundle.idle
  bytes := []
  setting := .phasorDataFormat .fixedInteger

/-- The `n` low bytes of `v`, most significant first: the inverse of `beNat` (R72, R183). -/
def beBytes : Nat → Nat → List Byte
  | 0, _ => []
  | n + 1, v => BitVec.ofNat 8 (v / 256 ^ n) :: beBytes n v

/-- Type byte of a frame (R101). -/
def FrameType.byte : FrameType → Byte
  | .data => 0x00
  | .configuration => 0x01

/-- The header encoder of R183. -/
def encodeHeader (h : Header) : List Byte :=
  [h.frameType.byte, 0x01] ++ beBytes 4 (h.frameLength - 6) ++ beBytes 8 h.channelID.toNat
    ++ beBytes 2 h.packetCount.toNat

/-- An image with a header written over the 16 bytes at `p`. -/
def putHeader (img : List Byte) (p : Nat) (h : Header) : List Byte :=
  img.take p ++ encodeHeader h ++ img.drop (p + 16)

/-- The encoding of an operation; internal operations have none (R3, R121). -/
def encode : Instr → Option Encoding
  | .reset => some (.command (Command.ofCode 0x01))
  | .start => some (.command (Command.ofCode 0x02))
  | .loadparam b => some (.command { Command.ofCode 0x03 with bundle := b })
  | .parse buf => some (.command { Command.ofCode 0x04 with bytes := buf })
  | .estreset => some (.command (Command.ofCode 0x05))
  | .chkcalc => some (.command (Command.ofCode 0x06))
  | .setfmt f => some (.command { Command.ofCode 0x07 with setting := f })
  | .data img p h => some (.frame (putHeader img p h) p)
  | .cfg img p h => some (.frame (putHeader img p h) p)
  | .scan _ _ | .hdr _ _ _ | .name _ _ _ _ | .makecell _ _ | .row _ _ _ | .newframe _ _ _ _ => none
  | .apply _ | .inputs _ | .overwrite _ _ | .copyforward _ _ => none
  | .estNew _ | .estStep _ _ _ | .fill _ _ | .slide _ _ _ | .recompute _ | .track _ _ _ | .estReset _ => none

/-- The directive `.hdr` (R124): `len` is the payload length field. -/
def hdrBytes (t : FrameType) (len : Nat) (ch : U64) (cnt : U16) : List Byte :=
  encodeHeader { frameType := t, version := 0x01, frameLength := len + 6, channelID := ch, packetCount := cnt }

/-- A name and its terminator (R103, R124). -/
def nameBytes (s : List Byte) : List Byte := s ++ [0x00]

/-- The directive `.cfg` (R124): the bytes of a configuration frame; every name at most 20 bytes, none holding 0x00. -/
def cfgFrameBytes (ch : U64) (cnt : U16) (scalar : PerChannel F32) (station : List Byte)
    (names : PerChannel (List Byte)) : List Byte :=
  let tail := nameBytes station ++ names.toList.flatMap nameBytes
  hdrBytes .configuration (10 + 32 + tail.length) ch cnt ++ beBytes 2 6 ++ beBytes 2 0 ++ beBytes 4 3000
    ++ scalar.toList.flatMap (fun v => beBytes 4 v.toNat) ++ tail

/-- The bytes of one row (R105, R106). -/
def rowBytes (raw : PerChannel I32) : List Byte := raw.toList.flatMap (fun v => beBytes 4 v.toNat)

/-- The directive `.data` (R124): the 1224 bytes of a data packet with payload length 1218. -/
def dataPacketBytes (ch : U64) (cnt : U16) (epoch : I64) (rows : Nat → PerChannel I32) : List Byte :=
  hdrBytes .data 1218 ch cnt ++ beBytes 8 epoch.toNat ++ (List.range 50).flatMap (fun i => rowBytes (rows i))

/-- A 16-bit table word as the frame it selects: the word's high byte is the frame's byte 0 (note of the table's DATA
and CFG rows), and every byte above is 0 up to the 1224 of the longest frame the protocol defines. -/
def tableFrame (w : Nat) : List Byte :=
  [BitVec.ofNat 8 (w / 256), BitVec.ofNat 8 w] ++ List.replicate 1222 0x00

/-- The instruction the decoder reads from a row of opcode_table.json whose bits are `w`: 8-bit rows are command
codes, 16-bit rows the first two bytes of a frame. -/
def decodeTableWord (nbits w : Nat) : Option Instr :=
  if nbits = 8 then (decodeCommand (Command.ofCode (BitVec.ofNat 8 w))).toOption
  else if nbits = 16 then (decodeFrame (tableFrame w) 0).toOption
  else none

end Sys2Proof
end

