-- ==== Sys2Proof/Machine/Float.lean ====
section
/-! DEFINITION. Binary64 arithmetic (00_scope R13): every operator computes its exact result as an integer (or an
integer quotient with a sticky bit) times a power of two and rounds once, to nearest, ties to even.  Nothing is fused.
The three transcendental functions carry properties P1 to P3 of R14, and P4 is a predicate on them. -/

namespace Sys2Proof

/-- Magnitude of infinity: biased exponent 2047, fraction 0. -/
def F64.infMag : Nat := 0x7FF0000000000000

/-- The number of magnitude `m` (everything at or above infinity's magnitude is infinity). -/
def F64.ofMag (neg : Bool) (m : Nat) : F64 :=
  .num neg ⟨min m 0x7FF0000000000000, Nat.lt_succ_of_le (Nat.min_le_right m 0x7FF0000000000000)⟩

/-- `+0.0` -/
def F64.zero : F64 := .num false ⟨0, Nat.zero_lt_succ _⟩

/-- The value of a binary64 bit pattern. -/
def F64.ofBits (b : BitVec 64) : F64 :=
  let m := b.toNat % 2 ^ 63
  if m ≤ F64.infMag then F64.ofMag (decide (2 ^ 63 ≤ b.toNat)) m else .nan

/-- The bit pattern of a value; a NaN has none that the spec fixes (R13). -/
def F64.toBits? : F64 → Option (BitVec 64)
  | .nan => none
  | .num neg m => some (BitVec.ofNat 64 ((if neg then 2 ^ 63 else 0) + m.val))

/-- `isNaN(v)` (R13). -/
def F64.isNaN : F64 → Bool
  | .nan => true
  | .num _ _ => false

/-- Neither a NaN nor an infinity. -/
def F64.isFinite : F64 → Bool
  | .nan => false
  | .num _ m => decide (m.val < F64.infMag)

/-- A finite magnitude is `mantissa × 2^exponent`. -/
def F64.mantissa (m : Nat) : Nat :=
  if m < 2 ^ 52 then m else m % 2 ^ 52 + 2 ^ 52

/-- Exponent of the last mantissa bit of a finite magnitude. -/
def F64.exponent (m : Nat) : Int :=
  if m < 2 ^ 52 then -1074 else (m / 2 ^ 52 : Nat) - 1075

/-- Round to nearest, ties to even (R13): the magnitude nearest `(m + δ) × 2^e`, where `δ` is 0, or, when `sticky`,
some number strictly between 0 and 1.  The last place of the result has exponent `q`; a carry out of the 53-bit
significand runs into the exponent field, and out of the largest finite magnitude into infinity. -/
def F64.roundMag (m : Nat) (e : Int) (sticky : Bool) : Nat :=
  if m = 0 then 0 else
  let q : Int := max ((Nat.log2 m : Int) + e - 52) (-1074)
  let kept : Nat :=
    if q ≤ e then m * 2 ^ (e - q).toNat
    else
      let sh := (q - e).toNat
      let rem := m % 2 ^ sh
      let half := 2 ^ (sh - 1)
      if half < rem ∨ (rem = half ∧ (sticky = true ∨ (m / 2 ^ sh) % 2 = 1)) then m / 2 ^ sh + 1 else m / 2 ^ sh
  min F64.infMag ((q + 1074).toNat * 2 ^ 52 + kept)

/-- The rounded value of the integer `s` times `2^e`; a zero sum takes the sign given. -/
def F64.roundInt (s : Int) (e : Int) (zeroNeg : Bool) : F64 :=
  if s = 0 then F64.ofMag zeroNeg 0 else F64.ofMag (decide (s < 0)) (F64.roundMag s.natAbs e false)

/-- `−x`: the sign reversed. -/
def F64.neg : F64 → F64
  | .nan => .nan
  | .num s m => .num (!s) m

/-- A sign put on a natural number. -/
def F64.signed (neg : Bool) (m : Nat) : Int :=
  if neg then -(m : Int) else m

/-- `x + y` (R13). -/
def F64.add : F64 → F64 → F64
  | .nan, _ => .nan
  | _, .nan => .nan
  | .num s m, .num t n =>
    if m.val = F64.infMag then
      (if n.val = F64.infMag ∧ s ≠ t then .nan else .num s m)
    else if n.val = F64.infMag then .num t n
    else
      let e := min (F64.exponent m) (F64.exponent n)
      let a := F64.signed s (F64.mantissa m * 2 ^ (F64.exponent m - e).toNat)
      let b := F64.signed t (F64.mantissa n * 2 ^ (F64.exponent n - e).toNat)
      F64.roundInt (a + b) e (s && t)

/-- `x − y` (R13). -/
def F64.sub (x y : F64) : F64 := F64.add x (F64.neg y)

/-- `x × y` (R13). -/
def F64.mul : F64 → F64 → F64
  | .nan, _ => .nan
  | _, .nan => .nan
  | .num s m, .num t n =>
    if m.val = F64.infMag ∨ n.val = F64.infMag then
      (if m.val = 0 ∨ n.val = 0 then .nan else F64.ofMag (s != t) F64.infMag)
    else
      F64.ofMag (s != t) (F64.roundMag (F64.mantissa m * F64.mantissa n) (F64.exponent m + F64.exponent n) false)

/-- `x / y` (R13).  The quotient is taken to more than 53 bits; what is left over is the sticky bit. -/
def F64.div : F64 → F64 → F64
  | .nan, _ => .nan
  | _, .nan => .nan
  | .num s m, .num t n =>
    if m.val = F64.infMag then (if n.val = F64.infMag then .nan else F64.ofMag (s != t) F64.infMag)
    else if n.val = F64.infMag then F64.ofMag (s != t) 0
    else if n.val = 0 then (if m.val = 0 then .nan else F64.ofMag (s != t) F64.infMag)
    else
      let a := F64.mantissa m * 2 ^ 110
      let b := F64.mantissa n
      F64.ofMag (s != t)
        (F64.roundMag (a / b) (F64.exponent m - F64.exponent n - 110) (decide (a % b ≠ 0)))

/-- Integer square root by digits: the bits of the root from number `k − 1` down, `r` being the bits already found. -/
def F64.isqrtDigits : Nat → Nat → Nat → Nat
  | 0, _, r => r
  | k + 1, n, r => F64.isqrtDigits k n (if (r + 2 ^ k) * (r + 2 ^ k) ≤ n then r + 2 ^ k else r)

/-- `⌊√n⌋` -/
def F64.isqrt (n : Nat) : Nat := F64.isqrtDigits (Nat.log2 n / 2 + 1) n 0

/-- `sqrt(x)` (R13): NaN for a negative number, the operand for a zero. -/
def F64.sqrt : F64 → F64
  | .nan => .nan
  | .num s m =>
    if m.val = 0 then .num s m
    else if s then .nan
    else if m.val = F64.infMag then .num s m
    else
      let e := F64.exponent m
      let k : Nat := if e.emod 2 = 0 then 110 else 111
      let a := F64.mantissa m * 2 ^ k
      let r := F64.isqrt a
      F64.ofMag false (F64.roundMag r ((e - k) / 2) (decide (r * r ≠ a)))

/-- Place of a number in the order of the reals; the two zeros are equal. -/
def F64.key (neg : Bool) (m : Nat) : Int := F64.signed neg m

/-- `x < y` (R13): false when either is a NaN. -/
def F64.lt : F64 → F64 → Bool
  | .num s m, .num t n => decide (F64.key s m < F64.key t n)
  | _, _ => false

/-- `x ≤ y` (R13): false when either is a NaN. -/
def F64.le : F64 → F64 → Bool
  | .num s m, .num t n => decide (F64.key s m ≤ F64.key t n)
  | _, _ => false

/-- `toF64(i)` (R13): exact while representable, rounded to nearest-even otherwise. -/
def F64.ofInt (i : Int) : F64 := F64.roundInt i 0 false

/-- `f32toF64(s)` (R13, R77): exact; infinities and NaN-ness are kept. -/
def F64.ofF32 (s : F32) : F64 :=
  let neg := decide (2 ^ 31 ≤ s.toNat)
  let ex : Nat := s.toNat / 2 ^ 23 % 2 ^ 8
  let fr : Nat := s.toNat % 2 ^ 23
  if ex = 255 then (if fr = 0 then F64.ofMag neg F64.infMag else .nan)
  else if ex = 0 then F64.ofMag neg (F64.roundMag fr (-149) false)
  else F64.ofMag neg (F64.roundMag (2 ^ 23 + fr) ((ex : Int) - 150) false)

/-- `PI` (R13): the f64 nearest π. -/
def F64.pi : F64 := F64.ofBits 0x400921FB54442D18

/-- `TWO_PI = 2.0 × PI` (R13). -/
def F64.twoPi : F64 := F64.mul (F64.ofInt 2) F64.pi

/-- `SQRT2 = sqrt(2.0)` (R13). -/
def F64.sqrt2 : F64 := F64.sqrt (F64.ofInt 2)

/-- `1.0` -/
def F64.one : F64 := F64.ofInt 1

/-- The parameter functions of R14 as one record, so that the estimator can be stated for any of them. -/
structure Trig where
  fcos : F64 → F64
  fsin : F64 → F64
  fatan2 : F64 → F64 → F64

/-- `r` if it lies in [−b, b], else `+0.0`. -/
def F64.within (b r : F64) : F64 :=
  if F64.le (F64.neg b) r && F64.le r b then r else F64.zero

/-- `fcos` (R14): the free function, with property P3 (finite operand: result in [−1, 1]). -/
def Trig.boundedCos (x : F64) : F64 :=
  if F64.isFinite x then F64.within F64.one (Config.rawCos x) else Config.rawCos x

/-- `fsin` (R14): the free function, with property P3. -/
def Trig.boundedSin (x : F64) : F64 :=
  if F64.isFinite x then F64.within F64.one (Config.rawSin x) else Config.rawSin x

/-- `fatan2` (R14): the free function, with property P2 (a NaN operand gives NaN; otherwise the result lies in
[−PI, PI]). -/
def Trig.boundedAtan2 (y x : F64) : F64 :=
  if F64.isNaN y || F64.isNaN x then .nan else F64.within F64.pi (Config.rawAtan2 y x)

/-- The functions the block is built with (R9, R14): every choice that has properties P1 to P3 is one of them. -/
def Trig.block : Trig where
  fcos := Trig.boundedCos
  fsin := Trig.boundedSin
  fatan2 := Trig.boundedAtan2

/-! The properties of R14 as predicates on the three functions.  P1 holds of any `Trig`, whose fields are functions. -/

/-- The rational number a finite magnitude stands for. -/
def F64.magValue (m : Nat) : ℚ := (F64.mantissa m : ℚ) * (2 : ℚ) ^ F64.exponent m

/-- `x` is finite and is the real number `v`. -/
def F64.Denotes : F64 → ℝ → Prop
  | .nan, _ => False
  | .num neg m, v => m.val < F64.infMag ∧ v = (F64.signed neg 1 : ℝ) * (F64.magValue m : ℝ)

/-- `x` is finite and within `n` units in the last place of the real number `v`.  The unit at `v` is the spacing of
binary64 there: the largest `2^e` that is the least spacing, `2^-1074`, or has `2^(e+52) ≤ |v|` (log entry 4). -/
def F64.WithinUlps (n : Nat) : F64 → ℝ → Prop
  | .nan, _ => False
  | .num neg m, v => m.val < F64.infMag ∧ ∃ e : ℤ, -1074 ≤ e ∧ (e = -1074 ∨ (2 : ℝ) ^ (e + 52) ≤ |v|) ∧
      |(F64.signed neg 1 : ℝ) * (F64.magValue m : ℝ) - v| ≤ (n : ℝ) * (2 : ℝ) ^ e

/-- Properties P2 and P3 (R14). -/
def Trig.Bounded (T : Trig) : Prop :=
  (∀ y x, y = .nan ∨ x = .nan → T.fatan2 y x = .nan) ∧
  (∀ y x, y ≠ .nan → x ≠ .nan → F64.le (F64.neg F64.pi) (T.fatan2 y x) = true ∧ F64.le (T.fatan2 y x) F64.pi = true) ∧
  ∀ x, F64.isFinite x = true →
    (F64.le (F64.neg F64.one) (T.fcos x) = true ∧ F64.le (T.fcos x) F64.one = true) ∧
    (F64.le (F64.neg F64.one) (T.fsin x) = true ∧ F64.le (T.fsin x) F64.one = true)

/-- Property P4 (R14) with the bound `ulps`: each result is within `ulps` units in the last place of the mathematical
value.  That value is the cosine or the sine of a finite operand, and the angle, from −π to π, of the point `(x, y)` for
finite operands not both zero; on the negative x-axis both −π and π are that angle.  R14 leaves `fatan2(±0, ±0)` to the
function, and for the other operands there is no real value.  Only tolerance claims use P4: they take
`Trig.block.Accurate Config.trigUlps` as a premise (log entry 4). -/
def Trig.Accurate (T : Trig) (ulps : Nat) : Prop :=
  (∀ x v, F64.Denotes x v → F64.WithinUlps ulps (T.fcos x) (Real.cos v) ∧
    F64.WithinUlps ulps (T.fsin x) (Real.sin v)) ∧
  ∀ y x b a, F64.Denotes y b → F64.Denotes x a → a ≠ 0 ∨ b ≠ 0 →
    ∃ ρ θ : ℝ, 0 < ρ ∧ -Real.pi ≤ θ ∧ θ ≤ Real.pi ∧ a = ρ * Real.cos θ ∧ b = ρ * Real.sin θ ∧
      F64.WithinUlps ulps (T.fatan2 y x) θ

end Sys2Proof
end

