-- ==== Sys2Proof/Machine/Operands.lean ====
section
/-! DEFINITION. Operand forms: bounded reads of the parse image (20_memory R74 to R79), row and timestamp offsets
(R108, R215), the legality of a parameter bundle (R32, R143) and the hardwired formats (R29). -/

namespace Sys2Proof.Machine

/-- `MemRead(a, n)` inside the frame at `p` of declared length `fl`: a read any part of which falls outside the frame
raises InsufficientLength (R79). -/
def memRead (img : List Byte) (p fl a n : Nat) : Except Raise Nat :=
  if p ≤ a ∧ a + n ≤ p + fl ∧ a + n ≤ img.length then .ok (beAt img a n)
  else .error ⟨.insufficientLength, p⟩

/-- Bounded `be_u8`, `be_u16`, `be_i32`, `be_i64`, `be_f32` (R75 to R78). -/
def readU8 (img : List Byte) (p fl a : Nat) : Except Raise U8 :=
  (memRead img p fl a 1).map (BitVec.ofNat 8)
def readU16 (img : List Byte) (p fl a : Nat) : Except Raise U16 :=
  (memRead img p fl a 2).map (BitVec.ofNat 16)
def readI32 (img : List Byte) (p fl a : Nat) : Except Raise I32 :=
  (memRead img p fl a 4).map (BitVec.ofNat 32)
def readI64 (img : List Byte) (p fl a : Nat) : Except Raise I64 :=
  (memRead img p fl a 8).map (BitVec.ofNat 64)
def readF32 (img : List Byte) (p fl a : Nat) : Except Raise F32 :=
  (memRead img p fl a 4).map (BitVec.ofNat 32)

/-- Run a read for every channel, in channel order (R16): "for c in 0..5". -/
def readPerChannel {α : Type} (f : Channel → Except Raise α) : Except Raise (PerChannel α) := do
  let a ← f .ia
  let b ← f .ib
  let c ← f .ic
  let d ← f .va
  let e ← f .vb
  let g ← f .vc
  pure ⟨a, b, c, d, e, g⟩

/-- Bytes `IMG[a .. a+n)` (R11). -/
def slice (img : List Byte) (a n : Nat) : List Byte := (img.drop a).take n

/-- Bytes of a data packet, header included (R109): 1224. -/
def dataFrameLen : Nat := 1224

/-- Rows in a data packet (R107): 50. -/
def framesPerPacket : Nat := 50

/-- `rowOff(i)` (R108, R214). -/
def rowOff (i : Nat) : Nat := if i = 0 then 24 else 48 + 24 * (i - 1)

/-- `OFFSET[i]` in nanoseconds (R44, R215). -/
def timeOffset (i : Nat) : Nat := (2 * i * 1000000 + 3) / 6

/-- `wrap64(ts0 + OFFSET[i])` (R215, R91): the sum in 64 bits. -/
def rowTimestamp (ts0 : I64) (i : Nat) : I64 := ts0 + BitVec.ofNat 64 (timeOffset i)

/-- Size of a sample frame if it had a wire image of its own (R226). -/
def binaryLength (f : DataFrame) : Nat := if f.initial then 48 else 40

/-- `samplesPerCycle` (R10, R243). -/
def samplesPerCycle : NominalFrequency → Nat
  | .hz60 => 50
  | .hz50 => 60

/-- `0.0 ≤ α` and `α ≤ 1.0`; a NaN fails (R143). -/
def alphaOk (a : F64) : Bool := F64.le F64.zero a && F64.le a F64.one

/-- `valid(b)` (R32, R143). -/
def validBundle (maxWindow : Option Nat) (b : ParamBundle) : Bool :=
  decide (1 ≤ b.calculationFrameRate.toNat) && decide (3000 % b.calculationFrameRate.toNat = 0)
  && decide (1 ≤ b.targetCycles.toInt)
  && (match maxWindow with
      | none => true
      | some w => decide (samplesPerCycle b.nominalFrequency * b.targetCycles.toInt.toNat ≤ w))
  && !b.enableIntervalAveraging && !b.enablePublishEMA
  && alphaOk b.frequencyAlpha && alphaOk b.rocofAlpha
  && decide (1 ≤ b.recalculationCycles.toInt)

/-- The hardwired format fields (R29). -/
def fixedFormats : Formats where
  phasorDataFormat := .fixedInteger
  phasorCoordinateFormat := .polar
  frequencyDataFormat := .floatingPoint
  analogDataFormat := .floatingPoint

/-- `v = fixed(f)` (R147). -/
def settingIsFixed : FormatSetting → Bool
  | .phasorDataFormat v => decide (v = fixedFormats.phasorDataFormat)
  | .phasorCoordinateFormat v => decide (v = fixedFormats.phasorCoordinateFormat)
  | .frequencyDataFormat v => decide (v = fixedFormats.frequencyDataFormat)
  | .analogDataFormat v => decide (v = fixedFormats.analogDataFormat)

/-- The two bytes of a sync pattern (R114). -/
def isSyncPattern (a b : Byte) : Bool := (decide (a = 0x00#8) || decide (a = 0x01#8)) && decide (b = 0x01#8)

end Sys2Proof.Machine
end

