-- ==== Sys2Proof/Machine/Ops.lean ====
section
/-! DEFINITION. The shared operations over the state: taking a decode exception and what stands in for the return from
one (60_exceptions R312, R317), command errors (R313), and the outcomes every meaning ends in. -/

namespace Sys2Proof.Machine

/-- TAKING A PARSE-TIME EXCEPTION (R167, R311, R312): one ParsingException event with the code and the cursor, the
framer Unsynchronized, the residual empty; nothing else is written and nothing is saved for a return. -/
def takeException (r : Raise) (s : State) : State :=
  ((s.emit (.parsingException r.exc r.info)).setSync .unsynchronized).setResidual []

/-- A COMMAND-TIME ERROR (R313): the status, and no other state. -/
def commandError (e : Exc) (s : State) : State := s.setStatus (.error e)

/-- RE-ENTRY AFTER AN EXCEPTION (R317, R167): there is no return-from-exception operation.  Under DiscardBuffer the
PARSE ends, and the next one re-enters by SCAN; under RescanFromNextByte scanning goes on at `cur + 1` of the same
image. -/
def resumeAfterException (ctx : ParseCtx) (s : State) : State :=
  match s.impl.resyncPolicy with
  | .discardBuffer => (s.setParse none).setStatus .ok
  | .rescanFromNextByte => s.setParse (some { ctx with cur := ctx.cur + 1 })

/-- An operation that decodes: its effect, or the exception it raises taken at once (R15, R310). -/
def finish (s : State) : Except Raise State → Outcome
  | .ok s' => .next s'
  | .error r => .next (takeException r s)

/-- An internal operation that returns a value and writes no state of the block: the value goes to `result`. -/
def finishValue {α : Type} (s : State) (wrap : α → OpResult) : Except Raise α → Outcome
  | .ok v => .next (s.setResult (wrap v))
  | .error r => .next (takeException r s)

end Sys2Proof.Machine
end

