-- ==== Sys2Proof/Machine/Estimator.lean ====
section
/-! DEFINITION. The estimator EST (45_estimator): construction, step and reset, each formula in the order of evaluation
the rule fixes, and the meanings of the rows EST.NEW, EST.STEP, FILL, SLIDE, RECOMPUTE, TRACK, EST.RESET.  The
functions are stated for any parameter functions `T` (R14); the meanings use `Trig.block`.  An operation that updates
its operand E leaves the updated E in `FR.est`, the block's one estimator (R20, R24). -/

namespace Sys2Proof.Machine

/-- `(TWO_PI × toF64(k × n)) / toF64(N)` (R244). -/
def tableAngle (k N n : Nat) : F64 :=
  F64.div (F64.mul F64.twoPi (F64.ofInt ((k * n : Nat) : Int))) (F64.ofInt (N : Int))

/-- The constants and tables of R243 and R244 for a bundle. -/
def estConstants (T : Trig) (b : ParamBundle) : EstConstants :=
  let hz60 := decide (b.nominalFrequency = .hz60)
  let spc := samplesPerCycle b.nominalFrequency
  let k := b.targetCycles.toInt.toNat
  let N := spc * k
  let theta := F64.div (F64.mul F64.twoPi (F64.ofInt (k : Int))) (F64.ofInt (N : Int))
  { fNom := if hz60 then F64.ofInt 60 else F64.ofInt 50
    spc := spc
    k := k
    N := N
    R := spc * b.recalculationCycles.toInt.toNat
    M := 3000 / b.calculationFrameRate.toNat
    r := b.referenceChannel
    alphaF := b.frequencyAlpha
    alphaR := b.rocofAlpha
    twRe := T.fcos theta
    twIm := T.fsin theta
    magScale := F64.div F64.sqrt2 (F64.ofInt (N : Int))
    period := F64.div F64.one (F64.ofInt 3000)
    fLo := if hz60 then F64.ofInt 54 else F64.ofInt 45
    fHi := if hz60 then F64.ofInt 66 else F64.ofInt 55
    cosT := (List.range N).map (fun n => T.fcos (tableAngle k N n))
    sinT := (List.range N).map (fun n => T.fsin (tableAngle k N n)) }

/-- The variable state after construction and after EST.RESET (R53, R245, R264). -/
def estInitialVars (c : EstConstants) : EstVars where
  buf := PerChannel.ofFn (fun _ => List.replicate c.N F64.zero)
  accRe := PerChannel.ofFn (fun _ => F64.zero)
  accIm := PerChannel.ofFn (fun _ => F64.zero)
  wr := 0
  total := 0
  sinceRecalc := 0
  prevPhase := none
  prevTs := none
  smoothedFreq := c.fNom
  freqSeeded := false
  rocof := F64.zero

/-- The state EST.NEW returns for a bundle that passes its checks (R243 to R245). -/
def estBuild (T : Trig) (b : ParamBundle) : Estimator :=
  ⟨estConstants T b, estInitialVars (estConstants T b)⟩

/-- EST.NEW (R241): InvalidParameter unless `valid(b)`. -/
def estNew (T : Trig) (maxWindow : Option Nat) (b : ParamBundle) : Except Exc Estimator :=
  if validBundle maxWindow b then .ok (estBuild T b) else .error .invalidParameter

/-- EST.RESET (R264): the variable state to its defaults, constants and tables kept. -/
def estReset (e : Estimator) : Estimator := ⟨e.const, estInitialVars e.const⟩

/-- Entry `n` of a buffer or a table (R42, R43); beyond the last entry a free value (log entry 12). -/
def entry (t : List F64) (n : Nat) : F64 := t.getD n Config.absentEntry

/-- FILL (R247), with `n = E.total`. -/
def fill (e : Estimator) (x : PerChannel F64) : Estimator :=
  let v := e.vars
  let cosN := entry e.const.cosT v.total
  let sinN := entry e.const.sinT v.total
  { e with vars := { v with
      buf := PerChannel.ofFn (fun c => (v.buf.get c).set v.wr (x.get c))
      accRe := PerChannel.ofFn (fun c => F64.add (v.accRe.get c) (F64.mul (x.get c) cosN))
      accIm := PerChannel.ofFn (fun c => F64.sub (v.accIm.get c) (F64.mul (x.get c) sinN))
      wr := (v.wr + 1) % e.const.N
      total := v.total + 1 } }

/-- Term `n` of the direct sum: the sample `n` places newer than the oldest, `buf[(wr + n) mod N]`, times table entry
`n` (R84, R251). -/
def dftTerm (buf table : List F64) (wr N n : Nat) : F64 := F64.mul (entry buf ((wr + n) % N)) (entry table n)

/-- Real part of the direct sum (R251): from `+0.0`, oldest sample first. -/
def dftRe (buf table : List F64) (wr N : Nat) : F64 :=
  (List.range N).foldl (fun re n => F64.add re (dftTerm buf table wr N n)) F64.zero

/-- Imaginary part of the direct sum (R251). -/
def dftIm (buf table : List F64) (wr N : Nat) : F64 :=
  (List.range N).foldl (fun im n => F64.sub im (dftTerm buf table wr N n)) F64.zero

/-- RECOMPUTE (R251): both accumulators of every channel rebuilt from the buffer. -/
def recompute (e : Estimator) : Estimator :=
  let v := e.vars
  { e with vars := { v with
      accRe := PerChannel.ofFn (fun c => dftRe (v.buf.get c) e.const.cosT v.wr e.const.N)
      accIm := PerChannel.ofFn (fun c => dftIm (v.buf.get c) e.const.sinT v.wr e.const.N) } }

/-- `t` of R249: the real part with the sample difference added. -/
def slideT (e : Estimator) (x old : PerChannel F64) (c : Channel) : F64 :=
  F64.add (e.vars.accRe.get c) (F64.sub (x.get c) (old.get c))

/-- SLIDE (R249). -/
def slide (e : Estimator) (x old : PerChannel F64) : Estimator :=
  let v := e.vars
  let k := e.const
  { e with vars := { v with
      accRe := PerChannel.ofFn (fun c =>
        F64.sub (F64.mul (slideT e x old c) k.twRe) (F64.mul (v.accIm.get c) k.twIm))
      accIm := PerChannel.ofFn (fun c =>
        F64.add (F64.mul (slideT e x old c) k.twIm) (F64.mul (v.accIm.get c) k.twRe)) } }

/-- normalize (R254): one correction by `TWO_PI` at most; a NaN is returned. -/
def normalize (a : F64) : F64 :=
  if F64.lt F64.pi a then F64.sub a F64.twoPi
  else if F64.le a (F64.neg F64.pi) then F64.add a F64.twoPi
  else a

/-- `refAngle` (R253). -/
def referenceAngle (T : Trig) (e : Estimator) : F64 :=
  T.fatan2 (e.vars.accIm.get e.const.r) (e.vars.accRe.get e.const.r)

/-- RMS magnitude of one channel (R252). -/
def magnitude (e : Estimator) (c : Channel) : F64 :=
  let re := e.vars.accRe.get c
  let im := e.vars.accIm.get c
  F64.mul (F64.sqrt (F64.add (F64.mul re re) (F64.mul im im))) e.const.magScale

/-- Angle of one channel relative to the reference (R253). -/
def relativeAngle (T : Trig) (e : Estimator) (c : Channel) : F64 :=
  normalize (F64.sub (T.fatan2 (e.vars.accIm.get c) (e.vars.accRe.get c)) (referenceAngle T e))

/-- `Δt` (R255): the measured time in seconds, or the nominal period when it is not strictly between 0 and 1 s. -/
def deltaT (period : F64) (prevTs ts : I64) : F64 :=
  let dt := F64.div (F64.ofInt (ts - prevTs).toInt) (F64.ofInt 1000000000)
  if F64.lt F64.zero dt && F64.lt dt F64.one then dt else period

/-- Instantaneous frequency (R256), before the clamp. -/
def instFrequency (fNom dt prevPhase refAngle : F64) : F64 :=
  let dphi := normalize (F64.sub refAngle prevPhase)
  let expected := F64.mul (F64.mul F64.twoPi fNom) dt
  F64.add fNom (F64.div (F64.sub dphi expected) (F64.mul F64.twoPi dt))

/-- Clamp (R257); a NaN passes. -/
def clampFrequency (fLo fHi inst : F64) : F64 :=
  let low := if F64.lt inst fLo then fLo else inst
  if F64.lt fHi low then fHi else low

/-- `y_n = α·x_n + (1−α)·y_{n−1}` (R18, R258). -/
def ema (alpha x y : F64) : F64 :=
  F64.add (F64.mul alpha x) (F64.mul (F64.sub F64.one alpha) y)

/-- The smoothing part of TRACK (R258, R259): the first instantaneous value seeds the frequency and sets ROCOF to
`+0.0`; later ones go through both moving averages. -/
def smooth (k : EstConstants) (v : EstVars) (inst dt : F64) : EstVars :=
  if v.freqSeeded then
    let f := ema k.alphaF inst v.smoothedFreq
    { v with smoothedFreq := f, rocof := ema k.alphaR (F64.div (F64.sub f v.smoothedFreq) dt) v.rocof }
  else { v with smoothedFreq := inst, freqSeeded := true, rocof := F64.zero }

/-- TRACK (R260).  `Δt` is computed from `E.prevTs`, which is held exactly when `E.prevPhase` is (R260); an E whose
two flags differ has no stated `Δt` (log entry 12). -/
def track (e : Estimator) (refAngle : F64) (ts : I64) : Estimator :=
  let k := e.const
  let v := match e.vars.prevPhase with
    | none => e.vars
    | some ph =>
      let dt := match e.vars.prevTs with
        | none => Config.unknownDeltaT
        | some pts => deltaT k.period pts ts
      smooth k e.vars (clampFrequency k.fLo k.fHi (instFrequency k.fNom dt ph refAngle)) dt
  { e with vars := { v with prevPhase := some refAngle, prevTs := some ts } }

/-- The oldest sample of each channel, about to be replaced (R84, R246). -/
def oldSamples (e : Estimator) : PerChannel F64 :=
  PerChannel.ofFn (fun c => entry (e.vars.buf.get c) e.vars.wr)

/-- The sample stored, the write index and the counters advanced: the first four lines of a steady-state step
(R246). -/
def storeSample (e : Estimator) (x : PerChannel F64) : Estimator :=
  let v := e.vars
  { e with vars := { v with
      buf := PerChannel.ofFn (fun c => (v.buf.get c).set v.wr (x.get c))
      wr := (v.wr + 1) % e.const.N
      total := v.total + 1
      sinceRecalc := v.sinceRecalc + 1 } }

/-- `RECOMPUTE(E) ; E.sinceRecalc <- 0` (R246, R248, R250). -/
def reanchor (e : Estimator) : Estimator :=
  let e := recompute e
  { e with vars := { e.vars with sinceRecalc := 0 } }

/-- Part A of a step (R246): the sample taken in and the accumulators brought up to date. -/
def takeSample (e : Estimator) (x : PerChannel F64) : Estimator :=
  if e.vars.total < e.const.N then
    let e' := fill e x
    if e'.vars.total < e'.const.N then e' else reanchor e'
  else
    let e' := storeSample e x
    if recalcDue e' then reanchor e' else slide e' x (oldSamples e)

/-- Parts B to D of a step on an estimator whose window is full (R246): extraction, tracking, publish or decline. -/
def extractAndTrack (T : Trig) (e : Estimator) (ts : I64) : Estimator × Option PhaseEstimate :=
  let mag := PerChannel.ofFn (magnitude e)
  let ang := PerChannel.ofFn (relativeAngle T e)
  let e' := track e (referenceAngle T e) ts
  (e', if publishes e' then
      some { frequency := e'.vars.smoothedFreq, dFdt := e'.vars.rocof, angle := ang, magnitude := mag }
    else none)

/-- EST.STEP (R246). -/
def estStep (T : Trig) (e : Estimator) (x : PerChannel F64) (ts : I64) : Estimator × Option PhaseEstimate :=
  let e' := takeSample e x
  if filled e' then extractAndTrack T e' ts else (e', none)

/-! Meanings. -/

/-- EST.NEW called directly (R241): the estimator built, or the status InvalidParameter (R301, R313). -/
def execEstNew (b : ParamBundle) (s : State) : Outcome :=
  match estNew Trig.block s.impl.maxWindow b with
  | .ok e => .next (s.setEst (some e))
  | .error x => .next (commandError x s)

/-- EST.STEP (R246). -/
def execEstStep (e : Estimator) (x : PerChannel F64) (ts : I64) (s : State) : Outcome :=
  let r := estStep Trig.block e x ts
  .next ((s.setEst (some r.1)).setResult (.estimate r.2))

/-- FILL (R247). -/
def execFill (e : Estimator) (x : PerChannel F64) (s : State) : Outcome := .next (s.setEst (some (fill e x)))

/-- SLIDE (R249). -/
def execSlide (e : Estimator) (x old : PerChannel F64) (s : State) : Outcome :=
  .next (s.setEst (some (slide e x old)))

/-- RECOMPUTE (R251). -/
def execRecompute (e : Estimator) (s : State) : Outcome := .next (s.setEst (some (recompute e)))

/-- TRACK (R260). -/
def execTrack (e : Estimator) (refAngle : F64) (ts : I64) (s : State) : Outcome :=
  .next (s.setEst (some (track e refAngle ts)))

/-- EST.RESET (R264). -/
def execEstReset (e : Estimator) (s : State) : Outcome := .next (s.setEst (some (estReset e)))

end Sys2Proof.Machine
end

