-- ==== Sys2Proof/Machine/Frames.lean ====
section
/-! DEFINITION. The wire frames and the internal operations that decode and expand them: SCAN (41_framer R162), HDR
(42_header), NAME, MAKECELL, CFG (43_config_frame), ROW, NEWFRAME, INPUTS, OVERWRITE, COPYFORWARD, APPLY, DATA
(44_data_frame). -/

namespace Sys2Proof.Machine

/-- SCAN over the bytes from an offset on: the offset of the first sync pattern (R162). -/
def scanBytes : List Byte → Nat → Option Nat
  | a :: b :: rest, at_ => if isSyncPattern a b then some at_ else scanBytes (b :: rest) (at_ + 1)
  | _, _ => none

/-- SCAN(IMG, from) (R162). -/
def scan (img : List Byte) (start : Nat) : Option Nat := scanBytes (img.drop start) start

/-- The declared length is legal (R182): at least 16, and within `MAX_FRAME_BYTES` when that is set. -/
def frameLengthOk (maxFrameBytes : Option Nat) (fl : Nat) : Bool :=
  decide (16 ≤ fl) && (match maxFrameBytes with
    | none => true
    | some m => decide (fl ≤ m))

/-- HDR(IMG, p, avail) (R180): the checks in the order of R181, then the length checks of R182.  An `avail` larger
than what the image holds from `p` on (no caller gives one) counts as the bytes the image holds. -/
def header (maxFrameBytes : Option Nat) (img : List Byte) (p avail : Nat) : Except Raise Header :=
  if avail < 16 ∨ img.length < p + 16 then .error ⟨.insufficientLength, p⟩
  else if beU8 img (p + 1) ≠ 0x01#8 then .error ⟨.unsupportedVersion, p⟩
  else if beU8 img p ≠ 0x00#8 ∧ beU8 img p ≠ 0x01#8 then .error ⟨.unknownFrameType, p⟩
  else
    let h := readHeader img p
    if frameLengthOk maxFrameBytes h.frameLength then .ok h else .error ⟨.invalidFrameLength, p⟩

/-- The scan of NAME (R193): `fuel` bytes still to examine, the next of them number `t`. -/
def nameScan (img : List Byte) (p fl a : Nat) : Nat → Nat → Except Raise (List Byte × Nat)
  | 0, _ => .ok (slice img a 21, a + 22)
  | fuel + 1, t => do
    let b ← readU8 img p fl (a + t)
    if b = 0x00#8 then pure (slice img a t, a + t + 1) else nameScan img p fl a fuel (t + 1)

/-- NAME(a) in the frame at `p` of declared length `fl` (R193): at most 21 bytes are examined. -/
def readName (img : List Byte) (p fl a : Nat) : Except Raise (List Byte × Nat) := nameScan img p fl a 21 0

/-- MAKECELL(scalar, analogName) (R197). -/
def makeCell (scalar : PerChannel F32) (analogName : PerChannel (List Byte)) : ConfigCell where
  analogDef := PerChannel.ofFn (fun c => ⟨analogName.get c, scalar.get c, .singlePointOnWave⟩)
  phasorDef := ⟨.current, .current, .current, .voltage, .voltage, .voltage⟩
  formats := fixedFormats

/-- A check that raises (R191). -/
def require (ok : Bool) (r : Raise) : Except Raise Unit := if ok then .ok () else .error r

/-- The six analog names from offset `a` on, each where the last one ended (R195). -/
def readNames (img : List Byte) (p fl a : Nat) : Except Raise (PerChannel (List Byte) × Nat) := do
  let (n0, a) ← readName img p fl a
  let (n1, a) ← readName img p fl a
  let (n2, a) ← readName img p fl a
  let (n3, a) ← readName img p fl a
  let (n4, a) ← readName img p fl a
  let (n5, a) ← readName img p fl a
  pure (⟨n0, n1, n2, n3, n4, n5⟩, a)

/-- Scalar of channel `c` (R112, R192). -/
def readScalar (img : List Byte) (p fl : Nat) (c : Channel) : Except Raise F32 :=
  readF32 img p fl (p + 24 + 4 * c.index)

/-- The decoding part of CFG (R190): every read and check, in the rule's order. -/
def decodeConfig (img : List Byte) (p : Nat) (h : Header) : Except Raise ConfigurationFrame := do
  let fl := h.frameLength
  let analogCount ← readU16 img p fl (p + 16)
  require (decide (analogCount = 6#16)) ⟨.protocolMismatch, p⟩
  let digitalCount ← readU16 img p fl (p + 18)
  require (decide (digitalCount = 0#16)) ⟨.protocolMismatch, p⟩
  let sampleRate ← readI32 img p fl (p + 20)
  require (decide (sampleRate.toInt = 3000)) ⟨.protocolMismatch, p⟩
  let scalar ← readPerChannel (readScalar img p fl)
  let (stationName, a) ← readName img p fl (p + 48)
  let (analogName, _) ← readNames img p fl a
  pure
    { header := h
      analogCount := analogCount
      digitalCount := digitalCount
      sampleRate := sampleRate
      scalar := scalar
      stationName := stationName
      analogName := analogName
      cell := makeCell scalar analogName }

/-- Commit and event of CFG (R200). -/
def commitConfig (f : ConfigurationFrame) (s : State) : State :=
  (s.setCfg (some f)).emit (.receivedConfigurationFrame f)

/-- CFG(IMG, p, hdr) (R190): nothing is written unless every field decodes (R202). -/
def configFrame (img : List Byte) (p : Nat) (h : Header) (s : State) : Except Raise State :=
  (decodeConfig img p h).map (fun f => commitConfig f s)

/-- ROW(IMG, p, i) inside a frame of declared length `fl` (R213). -/
def readRow (img : List Byte) (p fl i : Nat) : Except Raise (PerChannel I32) :=
  readPerChannel (fun c => readI32 img p fl (p + rowOff i + 4 * c.index))

/-- NEWFRAME(hdr, i, ts, raw) (R216). -/
def newFrame (haveCfg : Bool) (h : Header) (i : Nat) (ts : I64) (raw : PerChannel I32) : DataFrame where
  header := h
  initial := decide (i = 0)
  timestamp := ts
  hasCell := haveCfg
  analogRaw := raw
  phasor := PerChannel.ofFn (fun c => ⟨F64.ofInt (raw.get c).toInt, .nan⟩)
  frequency := .nan
  dFdt := .nan

/-- One channel of INPUTS (R220).  With no configuration held R220 gives no result: a free value (log entry 8). -/
def inputOf (scaled : Bool) (cfg : Option ConfigurationFrame) (raw : I32) (c : Channel) : F64 :=
  if scaled then
    match cfg with
    | some f => F64.mul (F64.ofInt raw.toInt) (F64.ofF32 (f.scalar.get c))
    | none => Config.inputWithoutConfig c raw
  else F64.ofInt raw.toInt

/-- INPUTS(F) (R220). -/
def inputs (s : State) (f : DataFrame) : PerChannel F64 :=
  PerChannel.ofFn (fun c => inputOf s.impl.estInputScaled s.fr.cfg (f.analogRaw.get c) c)

/-- The frame OVERWRITE leaves (R221). -/
def overwriteFrame (f : DataFrame) (est : PhaseEstimate) : DataFrame :=
  { f with
    frequency := est.frequency
    dFdt := est.dFdt
    phasor := PerChannel.ofFn (fun c => ⟨est.magnitude.get c, est.angle.get c⟩) }

/-- The estimated cell of a frame (R26, R221). -/
def estimatedCell (f : DataFrame) : EstimatedCell := ⟨f.frequency, f.dFdt, f.phasor⟩

/-- OVERWRITE(F, est) (R221): the frame overwritten and its cell retained. -/
def overwrite (f : DataFrame) (est : PhaseEstimate) (s : State) : DataFrame × State :=
  let f' := overwriteFrame f est
  (f', s.setLastEstCell (some (estimatedCell f')))

/-- COPYFORWARD(F, cell) (R222). -/
def copyForward (f : DataFrame) (cell : EstimatedCell) : DataFrame :=
  { f with frequency := cell.frequency, dFdt := cell.dFdt, phasor := cell.phasor }

/-- "slot counts of F are not all exactly 6" (R218); never true, every frame has six of each by its type. -/
def slotCountsWrong (f : DataFrame) : Bool :=
  decide (f.analogRaw.toList.length ≠ 6) || decide (f.phasor.toList.length ≠ 6)

/-- The skip tests of APPLY, in the rule's order (R218). -/
def applySkips (params : Option ParamBundle) (f : DataFrame) : Bool :=
  match params with
  | none => true
  | some b => !b.calculatePhaseEstimates || !f.hasCell || decide (f.timestamp.toInt ≤ 0) || slotCountsWrong f

/-- `FR.est`, built from the bundle in force when there is none yet (R219).  The bundle has passed `valid(b)` at
LOADPARAM, so EST.NEW's checks are not made again. -/
def lazyEstimator (s : State) (b : ParamBundle) : Estimator :=
  match s.fr.est with
  | some e => e
  | none => estBuild Trig.block b

/-- What APPLY does with the answer of the estimator step (R218, R221, R222). -/
def applyAnswer (b : ParamBundle) (r : Option PhaseEstimate) (f : DataFrame) (s : State) : DataFrame × State :=
  match r with
  | some est => overwrite f est s
  | none =>
    match s.fr.lastEstCell with
    | some cell => (if b.repeatLastCalculatedValueWhenDownSampling then copyForward f cell else f, s)
    | none => (f, s)

/-- APPLY(F) (R218): the frame it leaves and the state. -/
def applyEstimate (f : DataFrame) (s : State) : DataFrame × State :=
  match s.fr.params with
  | none => (f, s)
  | some b =>
    if applySkips (some b) f then (f, s)
    else
      let r := estStep Trig.block (lazyEstimator s b) (inputs s f) f.timestamp
      applyAnswer b r.2 f (s.setEst (some r.1))

/-- The last two lines of the expansion loop: retain and emit (R217, R223, R224). -/
def retainAndEmit (f : DataFrame) (s : State) : State :=
  (s.setLastFrame (some f)).emit (.receivedDataFrame f)

/-- One pass of the expansion loop, once the row has decoded (R217). -/
def sampleFrame (h : Header) (ts0 : I64) (i : Nat) (raw : PerChannel I32) (s : State) : State :=
  let r := applyEstimate (newFrame s.haveCfg h i (rowTimestamp ts0 i) raw) s
  retainAndEmit r.1 r.2

/-- The expansion loop over the rows listed (R217); `i` is the row index of R27. -/
def expandRows (img : List Byte) (p : Nat) (h : Header) (ts0 : I64) : List Nat → State → Except Raise State
  | [], s => .ok s
  | i :: rest, s => do
    let raw ← readRow img p h.frameLength i
    expandRows img p h ts0 rest (sampleFrame h ts0 i raw s)

/-- DATA(IMG, p, hdr) (R210): the length check before anything else (R211), then fifty rows. -/
def dataFrame (img : List Byte) (p : Nat) (h : Header) (s : State) : Except Raise State := do
  require (decide (dataFrameLen ≤ h.frameLength)) ⟨.insufficientLength, p⟩
  let ts0 ← readI64 img p h.frameLength (p + 16)
  expandRows img p h ts0 (List.range framesPerPacket) s

/-! Meanings. -/

/-- DATA (R210). -/
def execData (img : List Byte) (p : Nat) (h : Header) (s : State) : Outcome := finish s (dataFrame img p h s)

/-- CFG (R190). -/
def execCfg (img : List Byte) (p : Nat) (h : Header) (s : State) : Outcome := finish s (configFrame img p h s)

/-- SCAN (R162). -/
def execScan (img : List Byte) (start : Nat) (s : State) : Outcome := .next (s.setResult (.offset (scan img start)))

/-- HDR (R180). -/
def execHdr (img : List Byte) (p avail : Nat) (s : State) : Outcome :=
  finishValue s .header (header s.impl.maxFrameBytes img p avail)

/-- NAME (R193). -/
def execName (img : List Byte) (p fl a : Nat) (s : State) : Outcome :=
  finishValue s (fun r => .name r.1 r.2) (readName img p fl a)

/-- MAKECELL (R197). -/
def execMakecell (scalar : PerChannel F32) (analogName : PerChannel (List Byte)) (s : State) : Outcome :=
  .next (s.setResult (.cell (makeCell scalar analogName)))

/-- ROW (R213): the frame is a data packet, at least 1224 bytes long (R211). -/
def execRow (img : List Byte) (p i : Nat) (s : State) : Outcome :=
  finishValue s .raw (readRow img p dataFrameLen i)

/-- NEWFRAME (R216). -/
def execNewframe (h : Header) (i : Nat) (ts : I64) (raw : PerChannel I32) (s : State) : Outcome :=
  .next (s.setResult (.frame (newFrame s.haveCfg h i ts raw)))

/-- APPLY (R218). -/
def execApply (f : DataFrame) (s : State) : Outcome :=
  let r := applyEstimate f s
  .next (r.2.setResult (.frame r.1))

/-- INPUTS (R220). -/
def execInputs (f : DataFrame) (s : State) : Outcome := .next (s.setResult (.inputs (inputs s f)))

/-- OVERWRITE (R221). -/
def execOverwrite (f : DataFrame) (est : PhaseEstimate) (s : State) : Outcome :=
  let r := overwrite f est s
  .next (r.2.setResult (.frame r.1))

/-- COPYFORWARD (R222). -/
def execCopyforward (f : DataFrame) (cell : EstimatedCell) (s : State) : Outcome :=
  .next (s.setResult (.frame (copyForward f cell)))

end Sys2Proof.Machine
end

