-- ==== Sys2Proof/Machine/HostCommands.lean ====
section
/-! DEFINITION. The host commands (40_host_commands) and the stream state machine PARSE runs (41_framer). -/

namespace Sys2Proof.Machine

/-- The body of the frame at the cursor (R165). -/
def frameBody (ctx : ParseCtx) (h : Header) (s : State) : Except Raise State :=
  match h.frameType with
  | .configuration => configFrame ctx.img ctx.cur h s
  | .data => dataFrame ctx.img ctx.cur h s

/-- End of a PARSE (R168): the transient context is gone, the status is Ok. -/
def endParse (s : State) : State := (s.setParse none).setStatus .ok

/-- The exception path of the loop (R167). -/
def parseException (ctx : ParseCtx) (r : Raise) (s : State) : State :=
  resumeAfterException ctx (takeException r s)

/-- One frame while Synchronized (R163): header, deferral (R164), body (R165), advance by the declared length (R166),
or the exception path (R167). -/
def parseFrame (ctx : ParseCtx) (s : State) : State :=
  match header s.impl.maxFrameBytes ctx.img ctx.cur (ctx.img.length - ctx.cur) with
  | .error r => parseException ctx r s
  | .ok h =>
    if ctx.img.length - ctx.cur < h.frameLength then
      endParse (s.setResidual (ctx.img.drop ctx.cur))
    else
      match frameBody ctx h s with
      | .error r => parseException ctx r s
      | .ok s' => s'.setParse (some { ctx with cur := ctx.cur + h.frameLength })

/-- One pass of the dispatch loop (R161). -/
def parsePass (ctx : ParseCtx) (s : State) : State :=
  if ctx.img.length ≤ ctx.cur then endParse s
  else
    match s.fr.sync with
    | .synchronized => parseFrame ctx s
    | .unsynchronized =>
      match scan ctx.img ctx.cur with
      | none => endParse s
      | some p => parseFrame { ctx with cur := p } ((s.setSync .synchronized).setParse (some { ctx with cur := p }))

/-- The dispatch loop (R161), for at most `fuel` passes.  Every pass either ends the command or moves the cursor
forward, so `len(IMG) + 1` passes are enough (R169). -/
def parseLoop : Nat → State → State
  | 0, s => s
  | fuel + 1, s =>
    match s.parse with
    | none => s
    | some ctx => parseLoop fuel (parsePass ctx s)

/-- The first three lines of PARSE (R40, R161). -/
def beginParse (buf : List Byte) (s : State) : State :=
  (s.setParse (some ⟨s.fr.residual ++ buf, 0⟩)).setResidual []

/-! Fetching. -/

/-- The next command of the program, taken off the port (R3, R140). -/
def takeCommand (s : State) : Option (Command × State) :=
  match s.program with
  | [] => none
  | c :: rest => some (c, s.setProgram rest)

/-- The next command of the program becomes `c` (what the host does when it gives a command). -/
def giveCommand (c : Command) (s : State) : State := (s.setProgram (c :: s.program)).setParse none

/-- A parse image with its cursor on its first byte, the framer Synchronized: the cursor stands on the first byte of a
header (R27, R160). -/
def giveFrame (img : List Byte) (s : State) : State := (s.setParse (some ⟨img, 0⟩)).setSync .synchronized

/-- Between commands the block holds its state and does nothing (R325). -/
def execIdle (s : State) : Outcome := .next s

/-! Meanings. -/

/-- RESET (R141). -/
def execReset (s : State) : Outcome := .next ({ s with fr := Framer.reset }.setStatus .ok)

/-- START (R142). -/
def execStart (s : State) : Outcome := .next (((s.setSync .unsynchronized).setResidual []).setStatus .ok)

/-- LOADPARAM (R143). -/
def execLoadparam (b : ParamBundle) (s : State) : Outcome :=
  if validBundle s.impl.maxWindow b then .next ((s.setParams (some b)).setStatus .ok)
  else .next (commandError .invalidParameter s)

/-- PARSE (R144, R161). -/
def execParse (buf : List Byte) (s : State) : Outcome :=
  .next (parseLoop ((s.fr.residual ++ buf).length + 1) (beginParse buf s))

/-- ESTRESET (R145). -/
def execEstreset (s : State) : Outcome :=
  match s.fr.est with
  | some e => .next ((s.setEst (some (estReset e))).setStatus .ok)
  | none => .next (s.setStatus .ok)

/-- CHKCALC (R146). -/
def execChkcalc (s : State) : Outcome := .next (commandError .unsupportedOperation s)

/-- SETFMT (R147). -/
def execSetfmt (f : FormatSetting) (s : State) : Outcome :=
  if settingIsFixed f then .next (s.setStatus .ok) else .next (commandError .unsupportedFormat s)

/-- A command whose code is reserved (R148): no row of the table, so no constructor of `Instr`. -/
def execReserved (s : State) : Outcome := .next (commandError .unsupportedOperation s)

end Sys2Proof.Machine
end

