-- ==== Sys2Proof/Machine/Dispatch.lean ====
section
/-! DEFINITION. The meaning of every operation: one arm per constructor of `Instr`, each a direct call. -/

namespace Sys2Proof.Machine

def exec (i : Instr) (s : State) : Host.Outcome State Fault Refusal :=
  match i with
  -- host commands
  | .reset => Sys2Proof.Machine.execReset s
  | .start => Sys2Proof.Machine.execStart s
  | .loadparam b => Sys2Proof.Machine.execLoadparam b s
  | .parse buf => Sys2Proof.Machine.execParse buf s
  | .estreset => Sys2Proof.Machine.execEstreset s
  | .chkcalc => Sys2Proof.Machine.execChkcalc s
  | .setfmt f => Sys2Proof.Machine.execSetfmt f s
  -- wire frames
  | .data img p h => Sys2Proof.Machine.execData img p h s
  | .cfg img p h => Sys2Proof.Machine.execCfg img p h s
  -- internal operations
  | .scan img start => Sys2Proof.Machine.execScan img start s
  | .hdr img p avail => Sys2Proof.Machine.execHdr img p avail s
  | .name img p fl a => Sys2Proof.Machine.execName img p fl a s
  | .makecell scalar analogName => Sys2Proof.Machine.execMakecell scalar analogName s
  | .row img p j => Sys2Proof.Machine.execRow img p j s
  | .newframe h j ts raw => Sys2Proof.Machine.execNewframe h j ts raw s
  | .apply f => Sys2Proof.Machine.execApply f s
  | .inputs f => Sys2Proof.Machine.execInputs f s
  | .overwrite f est => Sys2Proof.Machine.execOverwrite f est s
  | .copyforward f cell => Sys2Proof.Machine.execCopyforward f cell s
  | .estNew b => Sys2Proof.Machine.execEstNew b s
  | .estStep e x ts => Sys2Proof.Machine.execEstStep e x ts s
  | .fill e x => Sys2Proof.Machine.execFill e x s
  | .slide e x old => Sys2Proof.Machine.execSlide e x old s
  | .recompute e => Sys2Proof.Machine.execRecompute e s
  | .track e refAngle ts => Sys2Proof.Machine.execTrack e refAngle ts s
  | .estReset e => Sys2Proof.Machine.execEstReset e s

end Sys2Proof.Machine
end

