-- ==== Sys2Proof/Machine/Step.lean ====
section
/-! DEFINITION. One step of the machine: the next host command taken from the program and run to completion (R17,
R140); while a PARSE is in progress, one pass of its dispatch loop at the cursor (R161). -/

namespace Sys2Proof.Machine

/-- One step.  A PARSE that a command starts has ended when the command's step ends, so a state in which one is in
progress is entered only where a parse image is given directly (`withFetchWord`); log entry 3. -/
def step (s : State) : Host.Outcome State Fault Refusal :=
  match s.parse with
  | some ctx => .next (parsePass ctx s)
  | none =>
    match takeCommand s with
    | none => execIdle s
    | some (c, s') =>
      match decodeCommand c with
      | .ok i => exec i s'
      | .error _ => execReserved s'

/-- The instruction of an opcode-table row stored where `step` fetches next: an 8-bit row is the next command of the
program, its operand lines idle; a 16-bit row is a parse image with the cursor on its first byte. -/
def State.withFetchWord (s : State) (nbits w : Nat) : State :=
  if nbits = 8 then giveCommand (Command.ofCode (BitVec.ofNat 8 w)) s
  else if nbits = 16 then giveFrame (tableFrame w) s
  else s

end Sys2Proof.Machine
end

