-- ==== Sys2Proof/WellFormed.lean ====
section
/-! DEFINITION. Which operands the spec's rules admit for each operation: the conditions the operand lines of the
rules state (R180, R190, R193, R210, R213, R216, R220, R246 to R264).  A bundle that LOADPARAM refuses is a
well-formed operand: refusing it is the command's effect (R143). -/

namespace Sys2Proof

/-- What HDR's success guarantees of a header (R34). -/
def Header.wf (h : Header) : Bool :=
  decide (h.version = 0x01#8 ∧ 16 ≤ h.frameLength ∧ h.frameLength ≤ 2 ^ 32 + 5)

/-- The invariant of an estimator (R54 I4), with the lengths of its buffers and tables (R42, R43), the counters'
ranges and the equality of the two `have` flags (R260). -/
def Estimator.wf (e : Estimator) : Bool :=
  decide (1 ≤ e.const.N ∧ 1 ≤ e.const.M ∧ 1 ≤ e.const.R ∧ e.const.cosT.length = e.const.N ∧
    e.const.sinT.length = e.const.N ∧ (∀ b ∈ e.vars.buf.toList, b.length = e.const.N) ∧
    e.vars.wr = e.vars.total % e.const.N ∧ e.vars.sinceRecalc < e.const.R ∧
    (e.vars.total < e.const.N → e.vars.prevPhase = none) ∧
    e.vars.prevPhase.isSome = e.vars.prevTs.isSome)

/-- The operand conditions of a wire frame at `p` (R190, R210): the header record is the one the image carries, of
the frame's type, and the whole declared frame lies inside the image. -/
def frameOperandsOk (t : FrameType) (img : List Byte) (p : Nat) (h : Header) : Bool :=
  h.wf && decide (h.frameType = t ∧ p + h.frameLength ≤ img.length ∧ beU8 img p = t.byte ∧ readHeader img p = h)

/-- The operands are ones the rule of the operation admits. -/
def Instr.wellFormed : Instr → Bool
  | .reset | .start | .loadparam _ | .parse _ | .estreset | .chkcalc | .setfmt _ => true
  | .data img p h => frameOperandsOk .data img p h
  | .cfg img p h => frameOperandsOk .configuration img p h
  | .scan _ _ => true
  | .hdr img p avail => decide (avail = img.length - p)
  | .name img p fl a => decide (p + fl ≤ img.length ∧ p ≤ a)
  | .makecell _ _ => true
  | .row img p i => decide (i < 50 ∧ p + 1224 ≤ img.length)
  | .newframe h i _ _ => h.wf && decide (h.frameType = .data ∧ i < 50)
  | .apply f => f.header.wf
  | .inputs f => f.hasCell
  | .overwrite _ _ | .copyforward _ _ => true
  | .estNew _ => true
  | .estStep e _ _ => e.wf
  | .fill e _ => e.wf && decide (e.vars.total < e.const.N)
  | .slide e _ _ => e.wf
  | .recompute e => e.wf
  | .track e _ _ => e.wf && decide (e.const.N ≤ e.vars.total)
  | .estReset e => e.wf

end Sys2Proof
end

