-- ==== Sys2Proof/Safety.lean ====
section
/-! DEFINITION. What counts as a good state: the invariants that hold between commands (10_state R54), stated for
every state the machine steps through, and the canonical form of the byte memories. -/

namespace Sys2Proof.Machine

/-- A byte memory of the block (parse image, residual): a dense sequence addressed from 0 (R70, R71).  The list is its
one canonical form: the address of a byte is its place, and an address that is not listed does not exist. -/
abbrev Memory := List Byte

/-- The memory as address and byte pairs from address `a` on. -/
def Memory.cellsFrom : Nat → Memory → List Host.Cell
  | _, [] => []
  | a, b :: rest => (a, b) :: Memory.cellsFrom (a + 1) rest

/-- The memory as address and byte pairs. -/
def Memory.cells (m : Memory) : List Host.Cell := Memory.cellsFrom 0 m

/-- Addresses strictly rising. -/
def Memory.risingFrom : Nat → List Host.Cell → Bool
  | _, [] => true
  | a, c :: rest => decide (a ≤ c.1) && Memory.risingFrom (c.1 + 1) rest

/-- The canonical form of the address and byte pairs. -/
def Memory.wf (m : Memory) : Bool := Memory.risingFrom 0 (Memory.cells m)

/-- The byte at an address of a memory; an address beyond the last has none. -/
def Memory.read (m : Memory) (a : Nat) : Option Byte := m[a]?

/-- The residual is the beginning of one frame whose header decodes and whose declared length is not yet there
(R54 I2). -/
def partialFrame (maxFrameBytes : Option Nat) (bytes : List Byte) : Prop :=
  ∃ h, header maxFrameBytes bytes 0 bytes.length = .ok h ∧ bytes.length < h.frameLength

/-- What can happen to an estimator between its construction and the RESET that discards it (R24, R263, R264). -/
inductive EstAction where
  /-- EST.STEP with a sample and its timestamp -/
  | step (x : PerChannel F64) (ts : I64)
  /-- EST.RESET -/
  | reset
deriving DecidableEq, Repr

/-- The cell of the frame that carries a published estimate (R26, R221). -/
def publishedCell (est : PhaseEstimate) : EstimatedCell :=
  ⟨est.frequency, est.dFdt, PerChannel.ofFn (fun c => ⟨est.magnitude.get c, est.angle.get c⟩)⟩

/-- One action on an estimator and the cell it published last: a step that publishes replaces the cell, a step that
declines and an EST.RESET keep it (R26). -/
def estAct (T : Trig) (p : Estimator × Option EstimatedCell) : EstAction → Estimator × Option EstimatedCell
  | .step x ts =>
    let r := estStep T p.1 x ts
    (r.1, match r.2 with
      | some est => some (publishedCell est)
      | none => p.2)
  | .reset => (estReset p.1, p.2)

/-- The life of an estimator: the actions in order. -/
def estLife (T : Trig) : Estimator × Option EstimatedCell → List EstAction → Estimator × Option EstimatedCell
  | p, [] => p
  | p, a :: rest => estLife T (estAct T p a) rest

/-- Where the estimator held comes from (R54 I4, I5): it was built, with no cell published, from a bundle that was in
FR.params then, and it and the retained cell are what a sequence of steps and EST.RESETs has made of it since.  The
sequence begins after the last RESET, which leaves no estimator (R53), so a retained cell means that one of its steps
has published (`estLife_cell`, Laws/Estimator.lean). -/
def State.EstHistory (s : State) : Prop :=
  ∀ e, s.fr.est = some e → ∃ b acts, validBundle s.impl.maxWindow b = true ∧
    estLife Trig.block (estBuild Trig.block b, none) acts = (e, s.fr.lastEstCell)

/-- The invariants of R54, with what they need to be kept by every step: the bundle in force is one LOADPARAM accepts
(R32), and while a PARSE is in progress the residual is empty and the cursor lies in the image (R27, R40). -/
structure State.Inv (s : State) : Prop where
  /-- I1 -/
  residual_empty_when_unsynchronized : s.fr.sync = .unsynchronized → s.fr.residual = []
  /-- I2 -/
  residual_is_partial_frame : s.fr.residual ≠ [] → partialFrame s.impl.maxFrameBytes s.fr.residual
  /-- I3 -/
  config_counts : ∀ c, s.fr.cfg = some c → c.analogCount.toNat = 6 ∧ c.digitalCount.toNat = 0 ∧ c.sampleRate.toInt = 3000
  /-- R32 -/
  bundle_valid : ∀ b, s.fr.params = some b → validBundle s.impl.maxWindow b = true
  /-- I4 -/
  estimator_wf : ∀ e, s.fr.est = some e → e.wf = true
  /-- I4: the bundle was there when E was built, and only RESET, which discards E, takes the last one away (R30, R51) -/
  estimator_has_bundle : s.fr.est ≠ none → s.fr.params ≠ none
  /-- I4, I5: E was built from a bundle in force, and the retained cell is the one E has published last since -/
  estimator_history : s.EstHistory
  /-- I5: no cell is retained without the estimator that published it -/
  cell_has_estimator : s.fr.lastEstCell ≠ none → s.fr.est ≠ none
  /-- R27, R40 -/
  cursor_in_image : ∀ ctx, s.parse = some ctx → s.fr.residual = [] ∧ ctx.cur ≤ ctx.img.length

/-- The legal bundles of R32 and R143, conjunct by conjunct. -/
def LegalBundle (maxWindow : Option Nat) (b : ParamBundle) : Prop :=
  1 ≤ b.calculationFrameRate.toNat ∧ 3000 % b.calculationFrameRate.toNat = 0 ∧ 1 ≤ b.targetCycles.toInt ∧
  (∀ w, maxWindow = some w →
    (if b.nominalFrequency = .hz60 then 50 else 60) * b.targetCycles.toInt.toNat ≤ w) ∧
  b.enableIntervalAveraging = false ∧ b.enablePublishEMA = false ∧
  (F64.le F64.zero b.frequencyAlpha = true ∧ F64.le b.frequencyAlpha F64.one = true) ∧
  (F64.le F64.zero b.rocofAlpha = true ∧ F64.le b.rocofAlpha F64.one = true) ∧
  1 ≤ b.recalculationCycles.toInt

/-- The name that format S spells from offset `a` on (R103): the bytes before the first 0x00 of at most 21. -/
def nameAt (img : List Byte) (a : Nat) : List Byte := ((img.drop a).take 21).takeWhile (fun b => decide (b ≠ 0x00#8))

/-- The offset after that name's field (R103): one byte beyond the name, whether or not it is a terminator. -/
def afterName (img : List Byte) (a : Nat) : Nat := a + (nameAt img a).length + 1

/-- Offset of name number `k` of the configuration frame at `p` (R102): the station name is number 0. -/
def nameStart (img : List Byte) (p : Nat) : Nat → Nat
  | 0 => p + 48
  | k + 1 => afterName img (nameStart img p k)

/-- Every byte the configuration decoder reads lies inside the declared frame (R79, R201): the fixed block, the
scalars, and of each name the bytes up to its terminator, at most 21. -/
def configFits (img : List Byte) (p fl : Nat) : Prop :=
  48 ≤ fl ∧ ∀ k, k < 7 → nameStart img p k + min ((nameAt img (nameStart img p k)).length + 1) 21 ≤ p + fl

/-- A stand-alone estimator run over a list of samples and timestamps (R149): the last state and the answers in
order. -/
def estRun (T : Trig) : Estimator → List (PerChannel F64 × I64) → Estimator × List (Option PhaseEstimate)
  | e, [] => (e, [])
  | e, x :: rest =>
    let r := estStep T e x.1 x.2
    let q := estRun T r.1 rest
    (q.1, r.2 :: q.2)

/-- A safe outcome: the machine goes on, in a state that meets the invariants. -/
def safeOutcome : Host.Outcome State Fault Refusal → Prop
  | .next s => s.Inv
  | .fault _ => False
  | .refused _ => False

end Sys2Proof.Machine
end

