-- ==== Sys2Proof/Certificates/Slice0/Obligations.lean ====
section
/-! DEFINITION. The statements for the provers.  Each formalises what a rule of spec/ says an operation or the machine
does; a clause that rests on a choice of the model names its log entry. -/

open Sys2Proof Sys2Proof.Machine

/-! Host commands. -/

/-- R141, R53, R121: code 0x01 is RESET, which puts every element of FR at its reset value, touches nothing else and
returns Ok. -/
def Obligations.ResetRestoresPowerOnFramer : Prop :=
  (∀ c : Command, c.code = 0x01#8 → decodeCommand c = .ok .reset) ∧
  ∀ s : State, exec .reset s = .next
    { s with
      fr := { sync := .unsynchronized, residual := [], cfg := none, params := none, est := none,
              lastFrame := none, lastEstCell := none }
      status := some .ok }

/-- R142: code 0x02 is START, which makes the framer Unsynchronized and its residual empty, keeps everything else and
returns Ok. -/
def Obligations.StartKeepsAllButFraming : Prop :=
  (∀ c : Command, c.code = 0x02#8 → decodeCommand c = .ok .start) ∧
  ∀ s : State, exec .start s = .next
    { s with fr := { s.fr with sync := .unsynchronized, residual := [] }, status := some .ok }

/-- R143, R32: code 0x03 is LOADPARAM of the bundle line; it replaces the bundle in force by a legal one and returns Ok,
and refuses any other with InvalidParameter and no other change. -/
def Obligations.LoadparamAcceptsExactlyLegalBundles : Prop :=
  (∀ c : Command, c.code = 0x03#8 → decodeCommand c = .ok (.loadparam c.bundle)) ∧
  ∀ (b : ParamBundle) (s : State),
    (LegalBundle s.impl.maxWindow b →
      exec (.loadparam b) s = .next { s with fr := { s.fr with params := some b }, status := some .ok }) ∧
    (¬LegalBundle s.impl.maxWindow b →
      exec (.loadparam b) s = .next { s with status := some (.error .invalidParameter) })

/-- R144, R161, R169: code 0x04 is PARSE of the byte line; it terminates and returns Ok, whatever the state and the
bytes; when it does, no parse context is left, OUT has only grown, and the bundle, the program, the implementation
parameters and the result register are as before. -/
def Obligations.ParseRunsToCompletion : Prop :=
  (∀ c : Command, c.code = 0x04#8 → decodeCommand c = .ok (.parse c.bytes)) ∧
  ∀ (buf : List Byte) (s : State), ∃ t, exec (.parse buf) s = .next t ∧ t.parse = none ∧ t.status = some .ok ∧
    t.fr.params = s.fr.params ∧ t.program = s.program ∧ t.impl = s.impl ∧ t.result = s.result ∧
    ∃ l, t.out = s.out ++ l

/-- R145, R264: code 0x05 is ESTRESET, which returns the estimator's variable state to its construction defaults and
keeps its constants and tables; with no estimator it does nothing; it returns Ok. -/
def Obligations.EstresetClearsEstimatorOnly : Prop :=
  (∀ c : Command, c.code = 0x05#8 → decodeCommand c = .ok .estreset) ∧
  ∀ s : State,
    (∀ e, s.fr.est = some e → exec .estreset s = .next
      { s with
        fr := { s.fr with est := some { const := e.const, vars :=
          { buf := PerChannel.ofFn (fun _ => List.replicate e.const.N F64.zero)
            accRe := PerChannel.ofFn (fun _ => F64.zero)
            accIm := PerChannel.ofFn (fun _ => F64.zero)
            wr := 0, total := 0, sinceRecalc := 0, prevPhase := none, prevTs := none
            smoothedFreq := e.const.fNom, freqSeeded := false, rocof := F64.zero } } }
        status := some .ok }) ∧
    (s.fr.est = none → exec .estreset s = .next { s with status := some .ok })

/-- R146: code 0x06 is CHKCALC, which returns Error(UnsupportedOperation) in every state, emits no event and changes no
state. -/
def Obligations.ChkcalcAlwaysUnsupported : Prop :=
  (∀ c : Command, c.code = 0x06#8 → decodeCommand c = .ok .chkcalc) ∧
  ∀ s : State, exec .chkcalc s = .next { s with status := some (.error .unsupportedOperation) }

/-- R147, R29: code 0x07 is SETFMT of the setting line; it succeeds for the four hardwired values and returns
UnsupportedFormat for every other value of each field's type, changing no state in either case. -/
def Obligations.SetfmtAcceptsOnlyHardwiredFormats : Prop :=
  (∀ c : Command, c.code = 0x07#8 → decodeCommand c = .ok (.setfmt c.setting)) ∧
  ∀ (f : FormatSetting) (s : State),
    (f = .phasorDataFormat .fixedInteger ∨ f = .phasorCoordinateFormat .polar ∨
        f = .frequencyDataFormat .floatingPoint ∨ f = .analogDataFormat .floatingPoint →
      exec (.setfmt f) s = .next { s with status := some .ok }) ∧
    (f = .phasorDataFormat .floatingPoint ∨ f = .phasorCoordinateFormat .rectangular ∨
        f = .frequencyDataFormat .fixedInteger ∨ f = .analogDataFormat .fixedInteger →
      exec (.setfmt f) s = .next { s with status := some (.error .unsupportedFormat) })

/-- R140, R313: a host command that returns an error has changed no state. -/
def Obligations.CommandErrorChangesNoState : Prop :=
  ∀ (i : Instr) (s t : State) (x : Exc), i.kind = .hostCommand → exec i s = .next t → t.status = some (.error x) →
    t = { s with status := some (.error x) }

/-! Steps. -/

/-- R17, R121, R325: when no PARSE is in progress and the next command decodes to `i`, a step takes the command off
the program and runs `i`; when no command waits, a step holds the state. That the commands still to be given stand in
the state as the program is the model's choice (log entries 2 and 3). -/
def Obligations.StepRunsDecodedCommand : Prop :=
  (∀ (s : State) (c : Command) (rest : List Command) (i : Instr),
    s.parse = none → s.program = c :: rest → decodeCommand c = .ok i →
    step s = exec i { s with program := rest }) ∧
  ∀ s : State, s.parse = none → s.program = [] → step s = .next s

/-- R148: a reserved command code returns UnsupportedOperation and changes nothing. -/
def Obligations.ReservedCodeIsUnsupported : Prop :=
  ∀ (s : State) (c : Command) (rest : List Command),
    s.parse = none → s.program = c :: rest → (c.code = 0x00#8 ∨ 0x08 ≤ c.code.toNat) →
    step s = .next { s with program := rest, status := some (.error .unsupportedOperation) }

/-- R161, R165 to R167: when a PARSE is in progress and Synchronized and the frame at the cursor decodes to a
well-formed `i` that `MAX_FRAME_BYTES` admits, the step runs `i`; after it the cursor has advanced by the declared
length, unless `i` raised, which leaves the framer Unsynchronized: then the PARSE ends (DiscardBuffer) or scanning
goes on at the next byte. That one step is one pass of the loop, from a parse image given directly, is the model's
choice (log entry 3; in R17 a step is a whole host command). -/
def Obligations.StepRunsDecodedFrame : Prop :=
  ∀ (s : State) (ctx : ParseCtx) (i : Instr),
    s.parse = some ctx → s.fr.sync = .synchronized → decodeFrame ctx.img ctx.cur = .ok i → i.wellFormed = true →
    (∀ m, s.impl.maxFrameBytes = some m → (readHeader ctx.img ctx.cur).frameLength ≤ m) →
    ∃ t, exec i s = .next t ∧
      (t.fr.sync = .synchronized → step s = .next
        { t with parse := some ⟨ctx.img, ctx.cur + (readHeader ctx.img ctx.cur).frameLength⟩ }) ∧
      (t.fr.sync = .unsynchronized → s.impl.resyncPolicy = .discardBuffer →
        step s = .next { t with parse := none, status := some .ok }) ∧
      (t.fr.sync = .unsynchronized → s.impl.resyncPolicy = .rescanFromNextByte →
        step s = .next { t with parse := some ⟨ctx.img, ctx.cur + 1⟩ })

/-- No operation and no step stops the machine: each answers a next state (93_implementation_defined: nothing in the
block is stuck). -/
def Obligations.NoOperationStops : Prop :=
  (∀ (i : Instr) (s : State), ∃ t, exec i s = .next t) ∧ ∀ s : State, ∃ t, step s = .next t

/-- The dispatch loop of PARSE is the iteration of the machine's step from the loaded parse image: PARSE in one step
reaches the state that at most `len(IMG) + 1` passes reach (R161, R169; log entry 3). -/
def Obligations.ParseIsIteratedPasses : Prop :=
  ∀ (buf : List Byte) (s : State), ∃ k, k ≤ (s.fr.residual ++ buf).length + 1 ∧
    Host.Core.run Sys2Proof.core k
      { s with parse := some ⟨s.fr.residual ++ buf, 0⟩, fr := { s.fr with residual := [] } } = exec (.parse buf) s

/-! Invariants. -/

/-- R53, R54: the invariants I1 to I5 hold after power-on. -/
def Obligations.PowerOnMeetsInvariants : Prop := State.reset.Inv

/-- R54: every step keeps the invariants: I1 to I3; I4, that E was built from a bundle that was in force, and its index
and counter; I5, that a retained cell is the one E has published last since its construction, which a RESET precedes;
and what they need to be kept. -/
def Obligations.StepKeepsInvariants : Prop :=
  ∀ s t : State, s.Inv → step s = .next t → t.Inv

/-- R47, R51, R33: OUT is append-only; no step but RESET discards the estimator, and no step changes its constants or
tables; the implementation parameters never change. -/
def Obligations.StepAppendsEventsAndKeepsConstants : Prop :=
  ∀ s t : State, step s = .next t → (∃ l, t.out = s.out ++ l) ∧ t.impl = s.impl ∧
    ∀ e, s.fr.est = some e →
      (∃ e', t.fr.est = some e' ∧ e'.const = e.const) ∨
      (t.fr.est = none ∧ s.parse = none ∧ ∃ c rest, s.program = c :: rest ∧ c.code = 0x01#8)

/-! Encodings. -/

/-- R113, R121, R180: decoding the encoding of a well-formed operation gives the operation. -/
def Obligations.DecodeInvertsEncode : Prop :=
  ∀ (i : Instr) (e : Encoding), i.wellFormed = true → encode i = some e → decode e = .ok i

/-- R121, R113: each of the seven command codes and the two sync patterns selects its operation, and a reserved code,
another type byte and another version byte select none. The operand lines of a bare table word are idle, which is the
model's choice (log entry 2). -/
def Obligations.TableWordsSelectTheirRows : Prop :=
  decodeTableWord 8 0x01 = some .reset ∧ decodeTableWord 8 0x02 = some .start ∧
  decodeTableWord 8 0x03 = some (.loadparam ParamBundle.idle) ∧
  decodeTableWord 8 0x07 = some (.setfmt (.phasorDataFormat .fixedInteger)) ∧
  decodeTableWord 8 0x04 = some (.parse []) ∧ decodeTableWord 8 0x05 = some .estreset ∧
  decodeTableWord 8 0x06 = some .chkcalc ∧ decodeTableWord 8 0x00 = none ∧ decodeTableWord 8 0x08 = none ∧
  (∃ h, decodeTableWord 16 0x0001 = some (.data (tableFrame 0x0001) 0 h)) ∧
  (∃ h, decodeTableWord 16 0x0101 = some (.cfg (tableFrame 0x0101) 0 h)) ∧
  decodeTableWord 16 0x0201 = none ∧ decodeTableWord 16 0x0002 = none

/-- R183: for any valid header, HDR of its encoding gives it back wherever the encoding stands in the image, the
declared length is the raw field plus 6, and the encoding is the type byte, 0x01, and three big-endian fields. -/
def Obligations.HeaderEncodingRoundTrips : Prop :=
  ∀ (h : Header) (pre post : List Byte), h.wf = true →
    header none (pre ++ encodeHeader h ++ post) pre.length (16 + post.length) = .ok h ∧
    beU32 (pre ++ encodeHeader h ++ post) (pre.length + 2) + 6 = h.frameLength ∧
    (encodeHeader h).length = 16 ∧
    (encodeHeader h)[0]? = some (if h.frameType = .data then 0x00#8 else 0x01#8) ∧
    (encodeHeader h)[1]? = some 0x01#8 ∧
    (∀ j, j < 4 → (encodeHeader h)[2 + j]? = some (BitVec.ofNat 8 ((h.frameLength - 6) / 256 ^ (3 - j)))) ∧
    (∀ j, j < 8 → (encodeHeader h)[6 + j]? = some (BitVec.ofNat 8 (h.channelID.toNat / 256 ^ (7 - j)))) ∧
    (∀ j, j < 2 → (encodeHeader h)[14 + j]? = some (BitVec.ofNat 8 (h.packetCount.toNat / 256 ^ (1 - j))))

/-- R124, R105 to R109: ROW reads back, from the packet the `.data` directive builds, every row it was built from, and
the packet is 1224 bytes long with the epoch at 16. That the value stands in the result register is the model's choice
(log entry 6). -/
def Obligations.DataPacketRowsRoundTrip : Prop :=
  ∀ (ch : U64) (cnt : U16) (epoch : I64) (rows : Nat → PerChannel I32) (s : State),
    (dataPacketBytes ch cnt epoch rows).length = 1224 ∧
    beU64 (dataPacketBytes ch cnt epoch rows) 16 = epoch ∧
    ∀ i, i < 50 → exec (.row (dataPacketBytes ch cnt epoch rows) 0 i) s = .next { s with result := .raw (rows i) }

/-- R124, R102, R103: CFG reads back, from the frame the `.cfg` directive builds, the scalars and names it was built
from. -/
def Obligations.ConfigFrameFieldsRoundTrip : Prop :=
  ∀ (ch : U64) (cnt : U16) (scalar : PerChannel F32) (station : List Byte) (names : PerChannel (List Byte))
    (h : Header) (s : State),
    station.length ≤ 20 → 0x00#8 ∉ station → (∀ c, (names.get c).length ≤ 20 ∧ 0x00#8 ∉ names.get c) →
    h.frameLength = (cfgFrameBytes ch cnt scalar station names).length →
    ∃ f, f.header = h ∧ f.scalar = scalar ∧ f.stationName = station ∧ f.analogName = names ∧
      exec (.cfg (cfgFrameBytes ch cnt scalar station names) 0 h) s = .next
        { s with fr := { s.fr with cfg := some f }, out := s.out ++ [.receivedConfigurationFrame f] }

/-! The stream. -/

/-- R162: SCAN returns the least offset at or after `from` at which a sync pattern stands, or none if there is no such
offset, and writes nothing of the block. That the value stands in the result register is the model's choice (log entry
6). -/
def Obligations.ScanFindsLeastPattern : Prop :=
  ∀ (img : List Byte) (start : Nat) (s : State), ∃ r,
    exec (.scan img start) s = .next { s with result := .offset r } ∧
    ∀ p, (r = some p ↔
      (start ≤ p ∧ (img[p]? = some 0x00#8 ∨ img[p]? = some 0x01#8) ∧ img[p + 1]? = some 0x01#8 ∧
        ∀ q, start ≤ q → q < p → ¬((img[q]? = some 0x00#8 ∨ img[q]? = some 0x01#8) ∧ img[q + 1]? = some 0x01#8)))

/-- R180 to R182: HDR makes its checks in the order length, version, type, declared length, raises at the offset
given, and otherwise returns the fields; a raise is taken as R312 says. That the value stands in the result register
is the model's choice (log entry 6). That a stand-alone call takes the exception entry when it raises is the model's
reading (log entry 7). -/
def Obligations.HdrChecksInOrder : Prop :=
  ∀ (img : List Byte) (p avail : Nat) (s : State), avail ≤ img.length - p →
    let fl := beAt img (p + 2) 4 + 6
    let raised := fun x : Exc => Host.Outcome.next (φ := Fault) (ρ := Refusal)
      { s with fr := { s.fr with sync := .unsynchronized, residual := [] }, out := s.out ++ [.parsingException x p] }
    (avail < 16 → exec (.hdr img p avail) s = raised .insufficientLength) ∧
    (16 ≤ avail →
      (img[p + 1]? ≠ some 0x01#8 → exec (.hdr img p avail) s = raised .unsupportedVersion) ∧
      (img[p + 1]? = some 0x01#8 →
        (img[p]? ≠ some 0x00#8 ∧ img[p]? ≠ some 0x01#8 →
          exec (.hdr img p avail) s = raised .unknownFrameType) ∧
        (∀ t : FrameType, img[p]? = some t.byte →
          (fl < 16 ∨ (∃ m, s.impl.maxFrameBytes = some m ∧ m < fl) →
            exec (.hdr img p avail) s = raised .invalidFrameLength) ∧
          (16 ≤ fl ∧ (∀ m, s.impl.maxFrameBytes = some m → fl ≤ m) →
            exec (.hdr img p avail) s = .next
              { s with
                result := .header
                  { frameType := t
                    version := 0x01#8
                    frameLength := fl
                    channelID := BitVec.ofNat 64 (beAt img (p + 6) 8)
                    packetCount := BitVec.ofNat 16 (beAt img (p + 14) 2) } }))))

/-- R164, R144: a Synchronized PARSE whose image is the beginning of one frame keeps the image as the residual, emits
nothing and stays Synchronized; and so at any cursor: where the header decodes and fewer bytes are left than it
declares, the bytes from the cursor to the end of the image become the residual, the PARSE ends with Ok and nothing
else changes. That the second clause is one step, a pass of the loop from a parse image given directly, is the model's
choice (log entry 3). -/
def Obligations.IncompleteFrameIsDeferred : Prop :=
  (∀ (buf : List Byte) (s : State) (h : Header),
    s.fr.sync = .synchronized →
    header s.impl.maxFrameBytes (s.fr.residual ++ buf) 0 (s.fr.residual ++ buf).length = .ok h →
    (s.fr.residual ++ buf).length < h.frameLength →
    exec (.parse buf) s = .next
      { s with fr := { s.fr with residual := s.fr.residual ++ buf }, parse := none, status := some .ok }) ∧
  ∀ (s : State) (ctx : ParseCtx) (h : Header),
    s.parse = some ctx → s.fr.sync = .synchronized →
    header s.impl.maxFrameBytes ctx.img ctx.cur (ctx.img.length - ctx.cur) = .ok h →
    ctx.img.length - ctx.cur < h.frameLength →
    step s = .next { s with
      fr := { s.fr with residual := ctx.img.drop ctx.cur }, parse := none, status := some .ok }

/-- R164: cutting a frame in two buffers anywhere after its header changes nothing: PARSE of the first part and then of
the second does what PARSE of both at once does. -/
def Obligations.SplitFrameParsesAsWhole : Prop :=
  ∀ (a b : List Byte) (s t : State) (h : Header),
    s.fr.sync = .synchronized → s.fr.residual = [] →
    header s.impl.maxFrameBytes a 0 a.length = .ok h → a.length < h.frameLength →
    exec (.parse a) s = .next t → exec (.parse b) t = exec (.parse (a ++ b)) s

/-- R161, R162, R168: a step of a PARSE that is Unsynchronized ends the PARSE, discarding the rest of the image, when
no sync pattern stands at or after the cursor; otherwise it does what a Synchronized step at the first pattern does.
That one step is one pass of the loop, from a parse image given directly, is the model's choice (log entry 3). -/
def Obligations.UnsynchronizedStepScans : Prop :=
  ∀ (s : State) (ctx : ParseCtx),
    let pattern := fun q : Nat =>
      (ctx.img[q]? = some 0x00#8 ∨ ctx.img[q]? = some 0x01#8) ∧ ctx.img[q + 1]? = some 0x01#8
    s.parse = some ctx → s.fr.sync = .unsynchronized →
    ((∀ q, ctx.cur ≤ q → ¬pattern q) → step s = .next { s with parse := none, status := some .ok }) ∧
    (∀ p, ctx.cur ≤ p → pattern p → (∀ q, ctx.cur ≤ q → q < p → ¬pattern q) →
      step s = step { s with fr := { s.fr with sync := .synchronized }, parse := some ⟨ctx.img, p⟩ })

/-- R170: garbage that holds no sync pattern (its last byte and the frame's first byte taken together included),
followed by one complete configuration frame that decodes, fed to an Unsynchronized parser, yields exactly one
configuration-frame event and leaves the parser Synchronized with an empty residual. -/
def Obligations.ResynchronisesPastGarbage : Prop :=
  ∀ (g frame : List Byte) (s : State) (h : Header) (f : ConfigurationFrame),
    s.fr.sync = .unsynchronized → s.fr.residual = [] →
    (∀ q, q < g.length → ¬(((g ++ frame)[q]? = some 0x00#8 ∨ (g ++ frame)[q]? = some 0x01#8) ∧
      (g ++ frame)[q + 1]? = some 0x01#8)) →
    header s.impl.maxFrameBytes (g ++ frame) g.length frame.length = .ok h →
    h.frameType = .configuration → h.frameLength = frame.length → decodeConfig (g ++ frame) g.length h = .ok f →
    exec (.parse (g ++ frame)) s = .next
      { s with
        fr := { s.fr with sync := .synchronized, cfg := some f }
        out := s.out ++ [.receivedConfigurationFrame f]
        parse := none
        status := some .ok }

/-- R167, R311, R312, R317: a header error inside a PARSE emits one ParsingException with the cursor, leaves the
framer Unsynchronized with an empty residual and writes nothing else; then the PARSE ends, or, under
RescanFromNextByte, goes on at the next byte. That one step is one pass of the loop, from a parse image given
directly, is the model's choice (log entry 3). -/
def Obligations.HeaderErrorEntersException : Prop :=
  ∀ (s : State) (ctx : ParseCtx) (r : Raise),
    s.parse = some ctx → s.fr.sync = .synchronized → ctx.cur < ctx.img.length →
    header s.impl.maxFrameBytes ctx.img ctx.cur (ctx.img.length - ctx.cur) = .error r →
    (s.impl.resyncPolicy = .discardBuffer → step s = .next
      { s with
        fr := { s.fr with sync := .unsynchronized, residual := [] }
        out := s.out ++ [.parsingException r.exc ctx.cur]
        parse := none
        status := some .ok }) ∧
    (s.impl.resyncPolicy = .rescanFromNextByte → step s = .next
      { s with
        fr := { s.fr with sync := .unsynchronized, residual := [] }
        out := s.out ++ [.parsingException r.exc ctx.cur]
        parse := some ⟨ctx.img, ctx.cur + 1⟩ })

/-! The configuration frame. -/

/-- R193, R103, R79: NAME stops at the first 0x00 among at most 21 bytes and returns the bytes before it and the
offset after it; 21 bytes without one are the name, and 22 are consumed, the last unread; a read that crosses the end
of the declared frame raises InsufficientLength. That the value stands in the result register is the model's choice
(log entry 6). That a stand-alone call takes the exception entry when it raises is the model's reading (log entry 7).
-/
def Obligations.NameStopsAtTerminatorOrTwentyOne : Prop :=
  ∀ (img : List Byte) (p fl a : Nat) (s : State), p + fl ≤ img.length → p ≤ a →
    (∀ t, t ≤ 20 → a + t < p + fl → img[a + t]? = some 0x00#8 → (∀ u, u < t → img[a + u]? ≠ some 0x00#8) →
      exec (.name img p fl a) s = .next { s with result := .name ((img.drop a).take t) (a + t + 1) }) ∧
    (a + 21 ≤ p + fl → (∀ u, u < 21 → img[a + u]? ≠ some 0x00#8) →
      exec (.name img p fl a) s = .next { s with result := .name ((img.drop a).take 21) (a + 22) }) ∧
    (∀ t, t ≤ 20 → p + fl ≤ a + t → (∀ u, u < t → img[a + u]? ≠ some 0x00#8) →
      exec (.name img p fl a) s = .next
        { s with
          fr := { s.fr with sync := .unsynchronized, residual := [] }
          out := s.out ++ [.parsingException .insufficientLength p] })

/-- R197: MAKECELL's six analog definitions, six phasor definitions and four fixed formats. That the value stands in
the result register is the model's choice (log entry 6). -/
def Obligations.MakecellFillsEverySlot : Prop :=
  ∀ (scalar : PerChannel F32) (names : PerChannel (List Byte)) (s : State), ∃ cell,
    exec (.makecell scalar names) s = .next { s with result := .cell cell } ∧
    (∀ c, cell.analogDef.get c = { name := names.get c, scalar := scalar.get c, type := .singlePointOnWave }) ∧
    (∀ c, cell.phasorDef.get c = if c = .ia ∨ c = .ib ∨ c = .ic then .current else .voltage) ∧
    cell.formats = { phasorDataFormat := .fixedInteger, phasorCoordinateFormat := .polar
                     frequencyDataFormat := .floatingPoint, analogDataFormat := .floatingPoint }

/-- R190, R191, R201, R202, R314: CFG reads and checks the three fields of the fixed block in order, each check before
the next field is read: a field that is not 6, 0 or 3000 raises ProtocolMismatch, a field that does not lie wholly in the
declared frame raises InsufficientLength, and the configuration in force stays. -/
def Obligations.CfgRejectsWrongFixedBlock : Prop :=
  ∀ (img : List Byte) (p : Nat) (h : Header) (s : State), p + h.frameLength ≤ img.length →
    let raised := fun x : Exc => Host.Outcome.next (φ := Fault) (ρ := Refusal)
      { s with fr := { s.fr with sync := .unsynchronized, residual := [] }, out := s.out ++ [.parsingException x p] }
    (h.frameLength < 18 → exec (.cfg img p h) s = raised .insufficientLength) ∧
    (18 ≤ h.frameLength →
      (beAt img (p + 16) 2 ≠ 6 → exec (.cfg img p h) s = raised .protocolMismatch) ∧
      (beAt img (p + 16) 2 = 6 →
        (h.frameLength < 20 → exec (.cfg img p h) s = raised .insufficientLength) ∧
        (20 ≤ h.frameLength →
          (beAt img (p + 18) 2 ≠ 0 → exec (.cfg img p h) s = raised .protocolMismatch) ∧
          (beAt img (p + 18) 2 = 0 →
            (h.frameLength < 24 → exec (.cfg img p h) s = raised .insufficientLength) ∧
            (24 ≤ h.frameLength → beAt img (p + 20) 4 ≠ 3000 →
              exec (.cfg img p h) s = raised .protocolMismatch)))))

/-- R190, R192, R194 to R197, R200, R201: with the fixed block right, a configuration frame is decoded, replaces the
configuration and emits one event exactly when every byte the decoder reads lies in the declared frame; otherwise it
raises InsufficientLength. A declared length below 24 is CfgRejectsWrongFixedBlock's. -/
def Obligations.CfgDecodesExactlyWhenNamesFit : Prop :=
  ∀ (img : List Byte) (p : Nat) (h : Header) (s : State), 24 ≤ h.frameLength → p + h.frameLength ≤ img.length →
    beAt img (p + 16) 2 = 6 → beAt img (p + 18) 2 = 0 → beAt img (p + 20) 4 = 3000 →
    (configFits img p h.frameLength → ∃ f,
      exec (.cfg img p h) s = .next
        { s with fr := { s.fr with cfg := some f }, out := s.out ++ [.receivedConfigurationFrame f] } ∧
      f.header = h ∧ f.analogCount = 6#16 ∧ f.digitalCount = 0#16 ∧ f.sampleRate = 3000#32 ∧
      (∀ c, f.scalar.get c = BitVec.ofNat 32 (beAt img (p + 24 + 4 * c.index) 4)) ∧
      f.stationName = nameAt img (nameStart img p 0) ∧
      (∀ c, f.analogName.get c = nameAt img (nameStart img p (c.index + 1))) ∧
      (∀ c, f.cell.analogDef.get c = ⟨f.analogName.get c, f.scalar.get c, .singlePointOnWave⟩) ∧
      (∀ c, f.cell.phasorDef.get c = if c = .ia ∨ c = .ib ∨ c = .ic then .current else .voltage) ∧
      f.cell.formats = { phasorDataFormat := .fixedInteger, phasorCoordinateFormat := .polar
                         frequencyDataFormat := .floatingPoint, analogDataFormat := .floatingPoint }) ∧
    (¬configFits img p h.frameLength →
      exec (.cfg img p h) s = .next
        { s with
          fr := { s.fr with sync := .unsynchronized, residual := [] }
          out := s.out ++ [.parsingException .insufficientLength p] })

/-! The data frame. -/

/-- R210, R212 to R219, R223, R224: a data packet whose declared length is at least 1224 emits exactly fifty sample
frames in row order, each with the packet's header, its own timestamp and its six signed values, retains the last, and
touches neither the configuration, the bundle, the framing state nor anything outside FR but OUT. Row by row it
decodes, builds, applies, retains and emits: frame `i` and the state after it are what APPLY leaves of NEWFRAME's
record in the state after row `i − 1`, the frame retained and emitted. NEWFRAME and APPLY are spoken of as stand-alone
calls, whose frame stands in the result register (log entries 6 and 7). -/
def Obligations.DataEmitsFiftyTimestampedFrames : Prop :=
  ∀ (img : List Byte) (p : Nat) (h : Header) (s : State), 1224 ≤ h.frameLength → p + h.frameLength ≤ img.length →
    ∃ (t : State) (fs : List DataFrame), exec (.data img p h) s = .next t ∧ fs.length = 50 ∧
      t = { s with
        fr := { s.fr with est := t.fr.est, lastFrame := fs.getLast?, lastEstCell := t.fr.lastEstCell }
        out := s.out ++ fs.map .receivedDataFrame } ∧
      (∀ i, i < 50 → ∃ f, fs[i]? = some f ∧ f.header = h ∧ (f.initial = true ↔ i = 0) ∧
        f.timestamp = BitVec.ofNat 64 (beAt img (p + 16) 8) + BitVec.ofNat 64 ((2 * i * 1000000 + 3) / 6) ∧
        f.hasCell = s.fr.cfg.isSome ∧
        ∀ c, f.analogRaw.get c =
          BitVec.ofNat 32 (beAt img (p + (if i = 0 then 24 else 48 + 24 * (i - 1)) + 4 * c.index) 4)) ∧
      (∀ e, s.fr.est = some e → ∃ e', t.fr.est = some e' ∧ e'.const = e.const) ∧
      ∃ after : Nat → State, after 0 = s ∧ after 50 = t ∧
        ∀ i, i < 50 → ∃ (raw : PerChannel I32) (f₀ f : DataFrame) (u : State),
          (∀ c, raw.get c =
            BitVec.ofNat 32 (beAt img (p + (if i = 0 then 24 else 48 + 24 * (i - 1)) + 4 * c.index) 4)) ∧
          exec (.newframe h i
            (BitVec.ofNat 64 (beAt img (p + 16) 8) + BitVec.ofNat 64 ((2 * i * 1000000 + 3) / 6)) raw) (after i)
            = .next { after i with result := .frame f₀ } ∧
          exec (.apply f₀) (after i) = .next { u with result := .frame f } ∧ u.result = s.result ∧
          fs[i]? = some f ∧
          after (i + 1) = { u with
            fr := { u.fr with lastFrame := some f }
            out := u.out ++ [.receivedDataFrame f] }

/-- R211, R119: a data frame that declares fewer than 1224 bytes raises InsufficientLength before any event. -/
def Obligations.ShortDataFrameRaises : Prop :=
  ∀ (img : List Byte) (p : Nat) (h : Header) (s : State), h.frameLength < 1224 →
    exec (.data img p h) s = .next
      { s with
        fr := { s.fr with sync := .unsynchronized, residual := [] }
        out := s.out ++ [.parsingException .insufficientLength p] }

/-- R316, R211, R202: a frame is all or nothing: a DATA or CFG that leaves the exception's event in OUT has had no other
effect. -/
def Obligations.FrameIsAllOrNothing : Prop :=
  ∀ (i : Instr) (s t : State), i.kind = .wireFrame → exec i s = .next t →
    (∃ x q, t = { s with
      fr := { s.fr with sync := .unsynchronized, residual := [] }
      out := s.out ++ [.parsingException x q] }) ∨
    (t.fr.sync = s.fr.sync ∧ t.fr.residual = s.fr.residual ∧
      ((∃ f, t.out = s.out ++ [.receivedConfigurationFrame f]) ∨
        ∃ fs : List DataFrame, fs.length = 50 ∧ t.out = s.out ++ fs.map .receivedDataFrame))

/-- R215, R225: the timestamps of consecutive rows are 333333 or 333334 ns apart as long as the last does not wrap, and
each offset is `i × 10^9 / 3000` to the nearest integer. -/
def Obligations.RowTimestampsAreEvenlySpaced : Prop :=
  (∀ i, i < 50 → 2 * (3 * timeOffset i) < 2 * (i * 1000000) + 3 ∧ 2 * (i * 1000000) < 2 * (3 * timeOffset i) + 3) ∧
  ∀ (ts0 : I64) (i : Nat), i < 49 → ts0.toInt + 16333333 < 2 ^ 63 →
    (rowTimestamp ts0 (i + 1)).toInt - (rowTimestamp ts0 i).toInt = 333333 ∨
    (rowTimestamp ts0 (i + 1)).toInt - (rowTimestamp ts0 i).toInt = 333334

/-- R213, R214: ROW's six values are the big-endian words at `rowOff(i) + 4c` of the packet. That the value stands in
the result register is the model's choice (log entry 6). -/
def Obligations.RowReadsSixSignedWords : Prop :=
  ∀ (img : List Byte) (p i : Nat) (s : State), i < 50 → p + 1224 ≤ img.length → ∃ raw : PerChannel I32,
    exec (.row img p i) s = .next { s with result := .raw raw } ∧
    ∀ (c : Channel) (b0 b1 b2 b3 : Byte),
      img[p + (if i = 0 then 24 else 48 + 24 * (i - 1)) + 4 * c.index]? = some b0 →
      img[p + (if i = 0 then 24 else 48 + 24 * (i - 1)) + 4 * c.index + 1]? = some b1 →
      img[p + (if i = 0 then 24 else 48 + 24 * (i - 1)) + 4 * c.index + 2]? = some b2 →
      img[p + (if i = 0 then 24 else 48 + 24 * (i - 1)) + 4 * c.index + 3]? = some b3 →
      raw.get c = b0 ++ b1 ++ b2 ++ b3

/-- R216: NEWFRAME's record: raw magnitudes, NaN angles, NaN frequency and dFdt, `hasCell` by the configuration held.
That the value stands in the result register is the model's choice (log entry 6). -/
def Obligations.NewframeIsUnestimated : Prop :=
  ∀ (h : Header) (i : Nat) (ts : I64) (raw : PerChannel I32) (s : State), ∃ f : DataFrame,
    exec (.newframe h i ts raw) s = .next { s with result := .frame f } ∧
    f.header = h ∧ (f.initial = true ↔ i = 0) ∧ f.timestamp = ts ∧ (f.hasCell = true ↔ s.fr.cfg ≠ none) ∧
    f.analogRaw = raw ∧ f.frequency = .nan ∧ f.dFdt = .nan ∧
    ∀ c, (f.phasor.get c).magnitude = F64.ofInt (raw.get c).toInt ∧ (f.phasor.get c).angle = .nan

/-- R220: INPUTS multiplies each raw value by its scalar when inputs are scaled, and passes it on otherwise; with no
configuration held and scaled inputs the values are open (log entry 8) and INPUTS completes all the same. That the
value stands in the result register is the model's choice (log entry 6). -/
def Obligations.InputsApplyScalars : Prop :=
  ∀ (f : DataFrame) (s : State), ∃ x : PerChannel F64,
    exec (.inputs f) s = .next { s with result := .inputs x } ∧
    (s.impl.estInputScaled = false → ∀ c, x.get c = F64.ofInt (f.analogRaw.get c).toInt) ∧
    (s.impl.estInputScaled = true → ∀ cf, s.fr.cfg = some cf →
      ∀ c, x.get c = F64.mul (F64.ofInt (f.analogRaw.get c).toInt) (F64.ofF32 (cf.scalar.get c)))

/-- R221: OVERWRITE writes the estimate into the frame, keeps the raw values and retains the cell. That the frame it
leaves stands in the result register is the model's reading (log entries 6 and 7). -/
def Obligations.OverwriteWritesEstimateAndRetainsCell : Prop :=
  ∀ (f : DataFrame) (est : PhaseEstimate) (s : State), ∃ f' : DataFrame,
    exec (.overwrite f est) s = .next
      { s with
        fr := { s.fr with lastEstCell := some ⟨est.frequency, est.dFdt, f'.phasor⟩ }
        result := .frame f' } ∧
    f' = { f with frequency := est.frequency, dFdt := est.dFdt, phasor := f'.phasor } ∧
    ∀ c, f'.phasor.get c = ⟨est.magnitude.get c, est.angle.get c⟩

/-- R222: COPYFORWARD copies the cell's frequency, dFdt and phasors and leaves the retained cell alone. That the frame
it leaves stands in the result register is the model's reading (log entries 6 and 7). -/
def Obligations.CopyforwardCopiesCell : Prop :=
  ∀ (f : DataFrame) (cell : EstimatedCell) (s : State),
    exec (.copyforward f cell) s = .next
      { s with result := .frame { f with frequency := cell.frequency, dFdt := cell.dFdt, phasor := cell.phasor } }

/-- R218: each skip condition leaves the frame as it is and does not step the estimator. That the frame it leaves
stands in the result register is the model's reading (log entries 6 and 7). -/
def Obligations.ApplySkipsLeaveEstimatorAlone : Prop :=
  ∀ (f : DataFrame) (s : State),
    (s.fr.params = none ∨ (∃ b, s.fr.params = some b ∧ b.calculatePhaseEstimates = false) ∨ f.hasCell = false ∨
      f.timestamp.toInt ≤ 0) →
    exec (.apply f) s = .next { s with result := .frame f }

/-- R218, R219, R221, R222: on a frame it does not skip, APPLY builds the estimator if there is none, steps it once,
and overwrites the frame, or copies the retained cell when the estimator declines and P3 is set, or leaves it. That it
builds from the bundle in force without EST.NEW's checks, an illegal bundle included, is the model's reading (log
entry 11), and so is that the frame it leaves stands in the result register (log entries 6 and 7). -/
def Obligations.ApplyStepsEstimatorOnce : Prop :=
  ∀ (f : DataFrame) (s : State) (b : ParamBundle),
    s.fr.params = some b → b.calculatePhaseEstimates = true → f.hasCell = true → 0 < f.timestamp.toInt →
    let r := estStep Trig.block (s.fr.est.getD (estBuild Trig.block b)) (inputs s f) f.timestamp
    (∀ est, r.2 = some est → ∃ ph : PerChannel Phasor,
      (∀ c, ph.get c = ⟨est.magnitude.get c, est.angle.get c⟩) ∧
      exec (.apply f) s = .next
        { s with
          fr := { s.fr with est := some r.1, lastEstCell := some ⟨est.frequency, est.dFdt, ph⟩ }
          result := .frame { f with frequency := est.frequency, dFdt := est.dFdt, phasor := ph } }) ∧
    (r.2 = none → ∀ cell, s.fr.lastEstCell = some cell → b.repeatLastCalculatedValueWhenDownSampling = true →
      exec (.apply f) s = .next
        { s with
          fr := { s.fr with est := some r.1 }
          result := .frame { f with frequency := cell.frequency, dFdt := cell.dFdt, phasor := cell.phasor } }) ∧
    (r.2 = none → s.fr.lastEstCell = none ∨ b.repeatLastCalculatedValueWhenDownSampling = false →
      exec (.apply f) s = .next { s with fr := { s.fr with est := some r.1 }, result := .frame f })

/-- R118, R184: the channel ID and the packet count are copied into the header of what DATA and CFG emit and keep, and
are otherwise without effect: two frames that differ only in them raise the same exception and leave the same state, or
leave states that differ only in that header, in the frames emitted, in the frame retained and in the configuration. -/
def Obligations.ChannelIdAndCountSteerNothing : Prop :=
  ∀ (img : List Byte) (p : Nat) (h : Header) (ch : U64) (cnt : U16) (s t t' : State),
    let h' := { h with channelID := ch, packetCount := cnt }
    (exec (.data img p h) s = .next t → exec (.data img p h') s = .next t' →
      (∃ x q, t.out = s.out ++ [.parsingException x q] ∧ t' = t) ∨
      ∃ fs : List DataFrame, (∀ f ∈ fs, f.header = h) ∧
        t.out = s.out ++ fs.map .receivedDataFrame ∧ t.fr.lastFrame = fs.getLast? ∧
        let fs' := fs.map (fun f => { f with header := h' })
        t' = { t with
          fr := { t.fr with lastFrame := fs'.getLast? }
          out := s.out ++ fs'.map .receivedDataFrame }) ∧
    (exec (.cfg img p h) s = .next t → exec (.cfg img p h') s = .next t' →
      (∃ x q, t.out = s.out ++ [.parsingException x q] ∧ t' = t) ∨
      ∃ f : ConfigurationFrame, f.header = h ∧
        t.out = s.out ++ [.receivedConfigurationFrame f] ∧ t.fr.cfg = some f ∧
        t' = { t with
          fr := { t.fr with cfg := some { f with header := h' } }
          out := s.out ++ [.receivedConfigurationFrame { f with header := h' }] })

/-! The estimator. -/

/-- R241, R243, R245: EST.NEW of a legal bundle builds the estimator with the derived constants and the initial
variable state; of any other it returns InvalidParameter and builds nothing (R301, R313). That a direct EST.NEW leaves
its estimator in FR.est and its error in the command status is the model's reading (log entry 7). -/
def Obligations.EstNewDerivesConstants : Prop :=
  ∀ (b : ParamBundle) (s : State),
    (LegalBundle s.impl.maxWindow b → ∃ e : Estimator,
      exec (.estNew b) s = .next { s with fr := { s.fr with est := some e } } ∧
      let hz60 := b.nominalFrequency = .hz60
      let spc := if hz60 then 50 else 60
      let k := b.targetCycles.toInt.toNat
      e.const.fNom = (if hz60 then F64.ofInt 60 else F64.ofInt 50) ∧ e.const.spc = spc ∧ e.const.k = k ∧
      e.const.N = spc * k ∧ e.const.R = spc * b.recalculationCycles.toInt.toNat ∧
      e.const.M = 3000 / b.calculationFrameRate.toNat ∧ e.const.r = b.referenceChannel ∧
      e.const.alphaF = b.frequencyAlpha ∧ e.const.alphaR = b.rocofAlpha ∧
      e.const.twRe = Trig.block.fcos (F64.div (F64.mul F64.twoPi (F64.ofInt k)) (F64.ofInt (spc * k : Nat))) ∧
      e.const.twIm = Trig.block.fsin (F64.div (F64.mul F64.twoPi (F64.ofInt k)) (F64.ofInt (spc * k : Nat))) ∧
      e.const.magScale = F64.div F64.sqrt2 (F64.ofInt (spc * k : Nat)) ∧
      e.const.period = F64.div F64.one (F64.ofInt 3000) ∧
      e.const.fLo = (if hz60 then F64.ofInt 54 else F64.ofInt 45) ∧
      e.const.fHi = (if hz60 then F64.ofInt 66 else F64.ofInt 55) ∧
      (∀ n, n < spc * k →
        e.const.cosT[n]? = some (Trig.block.fcos
          (F64.div (F64.mul F64.twoPi (F64.ofInt (k * n : Nat))) (F64.ofInt (spc * k : Nat)))) ∧
        e.const.sinT[n]? = some (Trig.block.fsin
          (F64.div (F64.mul F64.twoPi (F64.ofInt (k * n : Nat))) (F64.ofInt (spc * k : Nat))))) ∧
      (∀ c, e.vars.buf.get c = List.replicate (spc * k) F64.zero ∧ e.vars.accRe.get c = F64.zero ∧
        e.vars.accIm.get c = F64.zero) ∧
      e.vars.wr = 0 ∧ e.vars.total = 0 ∧ e.vars.sinceRecalc = 0 ∧ e.vars.prevPhase = none ∧ e.vars.prevTs = none ∧
      e.vars.smoothedFreq = e.const.fNom ∧ e.vars.freqSeeded = false ∧ e.vars.rocof = F64.zero) ∧
    (¬LegalBundle s.impl.maxWindow b →
      exec (.estNew b) s = .next { s with status := some (.error .invalidParameter) })

/-- R247: FILL stores the sample, accumulates the two rounded products at index `n = E.total` and advances the index
and the counter, and nothing else. That a stand-alone call leaves the new E in FR.est, whatever FR.est held, is the
model's reading (log entry 7). What it does with an E of another shape than R42 and R43 is the model's choice (log
entry 12). -/
def Obligations.FillAccumulatesDirectly : Prop :=
  ∀ (e : Estimator) (x : PerChannel F64) (s : State) (cosn sinn : F64),
    e.const.cosT[e.vars.total]? = some cosn → e.const.sinT[e.vars.total]? = some sinn → ∃ v : EstVars,
    exec (.fill e x) s = .next { s with fr := { s.fr with est := some ⟨e.const, v⟩ } } ∧
    v = { e.vars with buf := v.buf, accRe := v.accRe, accIm := v.accIm, wr := v.wr, total := e.vars.total + 1 } ∧
    v.wr = (e.vars.wr + 1) % e.const.N ∧
    ∀ c, v.buf.get c = (e.vars.buf.get c).set e.vars.wr (x.get c) ∧
      v.accRe.get c = F64.add (e.vars.accRe.get c) (F64.mul (x.get c) cosn) ∧
      v.accIm.get c = F64.sub (e.vars.accIm.get c) (F64.mul (x.get c) sinn)

/-- R249: SLIDE adds the sample difference to the real part and multiplies by the twiddle factor, lane by lane, and
writes nothing but the accumulators. That a stand-alone call leaves the new E in FR.est, whatever FR.est held, is the
model's reading (log entry 7). -/
def Obligations.SlideRotatesByTwiddle : Prop :=
  ∀ (e : Estimator) (x old : PerChannel F64) (s : State), ∃ v : EstVars,
    exec (.slide e x old) s = .next { s with fr := { s.fr with est := some ⟨e.const, v⟩ } } ∧
    v = { e.vars with accRe := v.accRe, accIm := v.accIm } ∧
    ∀ c,
      let t := F64.add (e.vars.accRe.get c) (F64.sub (x.get c) (old.get c))
      v.accRe.get c = F64.sub (F64.mul t e.const.twRe) (F64.mul (e.vars.accIm.get c) e.const.twIm) ∧
      v.accIm.get c = F64.add (F64.mul t e.const.twIm) (F64.mul (e.vars.accIm.get c) e.const.twRe)

/-- R251: RECOMPUTE is the sum from `+0.0` over `n = 0..N−1` of the sample `n` places newer than the oldest times the
table entry `n`, and writes nothing but the accumulators. That a stand-alone call leaves the new E in FR.est, whatever
FR.est held, is the model's reading (log entry 7). -/
def Obligations.RecomputeSumsOldestFirst : Prop :=
  ∀ (e : Estimator) (s : State), e.wf = true → ∃ v : EstVars,
    exec (.recompute e) s = .next { s with fr := { s.fr with est := some ⟨e.const, v⟩ } } ∧
    v = { e.vars with accRe := v.accRe, accIm := v.accIm } ∧
    ∀ c,
      v.accRe.get c = (List.range e.const.N).foldl (fun re n => F64.add re (F64.mul
        ((e.vars.buf.get c).getD ((e.vars.wr + n) % e.const.N) F64.zero) (e.const.cosT.getD n F64.zero))) F64.zero ∧
      v.accIm.get c = (List.range e.const.N).foldl (fun im n => F64.sub im (F64.mul
        ((e.vars.buf.get c).getD ((e.vars.wr + n) % e.const.N) F64.zero) (e.const.sinT.getD n F64.zero))) F64.zero

/-- R254 to R260: TRACK records phase and timestamp; with no previous phase it does no more; the first instantaneous
value seeds the frequency and zeroes the ROCOF; later ones go through both moving averages. The time step is the
64-bit wrapped difference of the timestamps in seconds, or the nominal period when it is not strictly between 0 and 1
s; the phase step is corrected once by `TWO_PI`. That a stand-alone call leaves the new E in FR.est, whatever FR.est
held, is the model's reading (log entry 7). -/
def Obligations.TrackSeedsThenSmooths : Prop :=
  ∀ (e : Estimator) (a : F64) (ts : I64) (s : State), e.wf = true → ∃ v : EstVars,
    exec (.track e a ts) s = .next { s with fr := { s.fr with est := some ⟨e.const, v⟩ } } ∧
    v = { e.vars with prevPhase := some a, prevTs := some ts, smoothedFreq := v.smoothedFreq
                      freqSeeded := v.freqSeeded, rocof := v.rocof } ∧
    (e.vars.prevPhase = none → v.smoothedFreq = e.vars.smoothedFreq ∧ v.freqSeeded = e.vars.freqSeeded ∧
      v.rocof = e.vars.rocof) ∧
    ∀ ph pts, e.vars.prevPhase = some ph → e.vars.prevTs = some pts →
      let measured := F64.div (F64.ofInt ((ts.toInt - pts.toInt).bmod (2 ^ 64))) (F64.ofInt 1000000000)
      let dt := if F64.lt F64.zero measured = true ∧ F64.lt measured F64.one = true then measured else e.const.period
      let turn := F64.sub a ph
      let dphi := if F64.lt F64.pi turn = true then F64.sub turn F64.twoPi
        else if F64.le turn (F64.neg F64.pi) = true then F64.add turn F64.twoPi else turn
      let inst := clampFrequency e.const.fLo e.const.fHi (F64.add e.const.fNom (F64.div
        (F64.sub dphi (F64.mul (F64.mul F64.twoPi e.const.fNom) dt)) (F64.mul F64.twoPi dt)))
      v.freqSeeded = true ∧
      (e.vars.freqSeeded = false → v.smoothedFreq = inst ∧ v.rocof = F64.zero) ∧
      (e.vars.freqSeeded = true →
        v.smoothedFreq = F64.add (F64.mul e.const.alphaF inst)
          (F64.mul (F64.sub F64.one e.const.alphaF) e.vars.smoothedFreq) ∧
        v.rocof = F64.add (F64.mul e.const.alphaR (F64.div (F64.sub v.smoothedFreq e.vars.smoothedFreq) dt))
          (F64.mul (F64.sub F64.one e.const.alphaR) e.vars.rocof))

/-- R264: EST.RESET keeps constants and tables and puts every variable element at its construction default. That a
stand-alone call leaves the new E in FR.est, whatever FR.est held, is the model's reading (log entry 7). -/
def Obligations.EstResetRestoresDefaults : Prop :=
  ∀ (e : Estimator) (s : State), exec (.estReset e) s = .next
    { s with fr := { s.fr with est := some { const := e.const, vars :=
      { buf := PerChannel.ofFn (fun _ => List.replicate e.const.N F64.zero)
        accRe := PerChannel.ofFn (fun _ => F64.zero)
        accIm := PerChannel.ofFn (fun _ => F64.zero)
        wr := 0, total := 0, sinceRecalc := 0, prevPhase := none, prevTs := none
        smoothedFreq := e.const.fNom, freqSeeded := false, rocof := F64.zero } } } }

/-- R246, R250, R260: EST.STEP always completes, advances the index and the counter, stores the sample, in steady
state rebuilds the accumulators when `sinceRecalc` reaches `R` and slides them otherwise, the sample taken out being
the entry at the write index before the new one is stored (R84), and, on every step from the one that fills the window
on, runs TRACK on the estimator so updated, with the angle of the reference channel, whether or not the step
publishes. The estimator and the answer are those of the function `estStep` with the block's functions, of which
EstStepPublishesEveryMth says what it publishes. That a stand-alone call leaves the new E in FR.est, whatever FR.est
held, is the model's reading (log entry 7). The answer stands in the result register (log entry 6). -/
def Obligations.EstStepRecomputesOnSchedule : Prop :=
  ∀ (e : Estimator) (x : PerChannel F64) (ts : I64) (s : State), e.wf = true → ∃ (e' : Estimator)
    (r : Option PhaseEstimate),
    exec (.estStep e x ts) s = .next { s with fr := { s.fr with est := some e' }, result := .estimate r } ∧
    estStep Trig.block e x ts = (e', r) ∧
    e'.const = e.const ∧ e'.vars.total = e.vars.total + 1 ∧ e'.vars.wr = (e.vars.wr + 1) % e.const.N ∧
    (∀ c, e'.vars.buf.get c = (e.vars.buf.get c).set e.vars.wr (x.get c)) ∧
    (e.vars.total + 1 < e.const.N → r = none ∧ e' = fill e x) ∧
    (e.vars.total + 1 = e.const.N → e'.vars.sinceRecalc = 0 ∧
      e'.vars.accRe = (recompute (fill e x)).vars.accRe ∧ e'.vars.accIm = (recompute (fill e x)).vars.accIm) ∧
    (e.const.N ≤ e.vars.total → e.const.R ≤ e.vars.sinceRecalc + 1 → e'.vars.sinceRecalc = 0 ∧
      e'.vars.accRe = (recompute e').vars.accRe ∧ e'.vars.accIm = (recompute e').vars.accIm) ∧
    (e.const.N ≤ e.vars.total → e.vars.sinceRecalc + 1 < e.const.R →
      e'.vars.sinceRecalc = e.vars.sinceRecalc + 1 ∧
      ∃ old : PerChannel F64, (∀ c, old.get c = (e.vars.buf.get c).getD e.vars.wr F64.zero) ∧
        e'.vars.accRe = (slide e x old).vars.accRe ∧ e'.vars.accIm = (slide e x old).vars.accIm) ∧
    (e.const.N ≤ e.vars.total + 1 → ∃ updated : Estimator,
      updated = takeSample e x ∧ updated.const = e.const ∧
      updated.vars = { e.vars with
        buf := e'.vars.buf, accRe := e'.vars.accRe, accIm := e'.vars.accIm, wr := e'.vars.wr, total := e'.vars.total
        sinceRecalc := e'.vars.sinceRecalc } ∧
      exec (.track updated (Trig.block.fatan2 (e'.vars.accIm.get e.const.r) (e'.vars.accRe.get e.const.r)) ts) s
        = .next { s with fr := { s.fr with est := some e' } })

/-- R246, R252, R253, R254, R260, R261, R262: once the window is full a step tracks the reference angle of the
accumulators just updated and publishes exactly when `(total − N) mod M = 0`, and what it publishes is the smoothed
frequency and ROCOF and, per channel, the RMS magnitude and the angle relative to the reference channel of those
accumulators, corrected once by `TWO_PI`. -/
def Obligations.EstStepPublishesEveryMth : Prop :=
  ∀ (T : Trig) (e : Estimator) (x : PerChannel F64) (ts : I64), e.const.N ≤ e.vars.total + 1 →
    let r := estStep T e x ts
    let reference := T.fatan2 (r.1.vars.accIm.get e.const.r) (r.1.vars.accRe.get e.const.r)
    r.1 = track (takeSample e x) reference ts ∧
    (r.2.isSome = true ↔ (e.vars.total + 1 - e.const.N) % e.const.M = 0) ∧
    ∀ est, r.2 = some est →
      est.frequency = r.1.vars.smoothedFreq ∧ est.dFdt = r.1.vars.rocof ∧
      (∀ c, est.magnitude.get c = F64.mul (F64.sqrt (F64.add
        (F64.mul (r.1.vars.accRe.get c) (r.1.vars.accRe.get c))
        (F64.mul (r.1.vars.accIm.get c) (r.1.vars.accIm.get c)))) e.const.magScale) ∧
      (∀ c,
        let turn := F64.sub (T.fatan2 (r.1.vars.accIm.get c) (r.1.vars.accRe.get c)) reference
        est.angle.get c = if F64.lt F64.pi turn = true then F64.sub turn F64.twoPi
          else if F64.le turn (F64.neg F64.pi) = true then F64.add turn F64.twoPi else turn)

/-- R261, R267, R240: a freshly built estimator answers nothing for its first `N − 1` steps, answers on the `N`-th, and
after it on every `M`-th. -/
def Obligations.WindowFillGatesEstimates : Prop :=
  ∀ (T : Trig) (b : ParamBundle) (ins : List (PerChannel F64 × I64)), LegalBundle none b →
    let N := (if b.nominalFrequency = .hz60 then 50 else 60) * b.targetCycles.toInt.toNat
    let M := 3000 / b.calculationFrameRate.toNat
    ∀ j, j < ins.length → ∃ r, (estRun T (estBuild T b) ins).2[j]? = some r ∧
      (r.isSome = true ↔ N ≤ j + 1 ∧ (j + 1 - N) % M = 0)

/-- R268: EST.RESET after any steps restores exactly the state EST.NEW returned, so replaying the samples gives the same
answers. -/
def Obligations.ResetReplaysIdentically : Prop :=
  ∀ (T : Trig) (b : ParamBundle) (ins again : List (PerChannel F64 × I64)),
    estReset (estRun T (estBuild T b) ins).1 = estBuild T b ∧
    (estRun T (estReset (estRun T (estBuild T b) ins).1) again).2 = (estRun T (estBuild T b) again).2

/-- R250: the recalculation counter of a freshly built estimator that has filled its window is `(total − N) mod R`, so
the accumulators are rebuilt on the steps that make `total` equal to `N`, `N + R`, `N + 2R`, …. -/
def Obligations.RecalcCounterFollowsTotal : Prop :=
  ∀ (T : Trig) (b : ParamBundle) (ins : List (PerChannel F64 × I64)), LegalBundle none b →
    let e := (estRun T (estBuild T b) ins).1
    e.vars.total = ins.length ∧
    (e.const.N ≤ ins.length → e.vars.sinceRecalc = (ins.length - e.const.N) % e.const.R)

/-- R248: the recomputation that completes the fill leaves the accumulators bit for bit as the fill left them. -/
def Obligations.FillCompletionKeepsAccumulators : Prop :=
  ∀ (T : Trig) (b : ParamBundle) (xs : List (PerChannel F64)), LegalBundle none b →
    let e := xs.foldl fill (estBuild T b)
    xs.length = e.const.N →
    (recompute e).vars.accRe = e.vars.accRe ∧ (recompute e).vars.accIm = e.vars.accIm

/-- R265: the lanes do not interact: what a step makes of one channel's buffer and accumulators depends on that
channel's sample, buffer and accumulators, the shared counters and the constants, and on no other channel. -/
def Obligations.LanesDoNotInteract : Prop :=
  ∀ (e e' : Estimator) (x x' : PerChannel F64) (c : Channel),
    e.const = e'.const → e.vars.total = e'.vars.total → e.vars.wr = e'.vars.wr →
    e.vars.sinceRecalc = e'.vars.sinceRecalc → e.vars.buf.get c = e'.vars.buf.get c →
    e.vars.accRe.get c = e'.vars.accRe.get c → e.vars.accIm.get c = e'.vars.accIm.get c → x.get c = x'.get c →
    (takeSample e x).vars.buf.get c = (takeSample e' x').vars.buf.get c ∧
    (takeSample e x).vars.accRe.get c = (takeSample e' x').vars.accRe.get c ∧
    (takeSample e x).vars.accIm.get c = (takeSample e' x').vars.accIm.get c

/-- R257: the clamp gives the lower bound for a value below the band, the upper bound for one above it, a value of the
band itself, and a NaN unchanged; so what is no NaN ends in the band. -/
def Obligations.ClampKeepsTheBand : Prop :=
  ∀ fLo fHi inst : F64, F64.le fLo fHi = true →
    (inst = .nan → clampFrequency fLo fHi inst = .nan) ∧
    (inst ≠ .nan → F64.le fLo (clampFrequency fLo fHi inst) = true ∧ F64.le (clampFrequency fLo fHi inst) fHi = true) ∧
    (F64.lt inst fLo = true → clampFrequency fLo fHi inst = fLo) ∧
    (F64.lt fHi inst = true → clampFrequency fLo fHi inst = fHi) ∧
    (F64.le fLo inst = true → F64.le inst fHi = true → clampFrequency fLo fHi inst = inst)

/-- R266: once the smoothed frequency of a running estimator is NaN it stays NaN, and the ROCOF is NaN with it, through
every later step. -/
def Obligations.NanFrequencyPersists : Prop :=
  ∀ (T : Trig) (e : Estimator) (ins : List (PerChannel F64 × I64)),
    e.const.N ≤ e.vars.total → e.vars.freqSeeded = true → e.vars.smoothedFreq = .nan → e.vars.prevPhase.isSome = true →
    (estRun T e ins).1.vars.smoothedFreq = .nan ∧ (ins ≠ [] → (estRun T e ins).1.vars.rocof = .nan)

/-- R13, R91: `toF64` is exact on every integer of magnitude at most 2^53. -/
def Obligations.SmallIntegersConvertExactly : Prop :=
  ∀ i : Int, -(2 ^ 53) ≤ i → i ≤ 2 ^ 53 → ∃ (neg : Bool) (m : Fin 0x7FF0000000000001),
    F64.ofInt i = .num neg m ∧ m.val < F64.infMag ∧
    (F64.signed neg (F64.mantissa m.val) : ℚ) * (2 : ℚ) ^ F64.exponent m.val = i
end

