-- ==== Sys2Proof/Laws/State.lean ====
section
/-! SUPPORT. What each field of State reads after each update: true by rfl, tagged simp, so that no proof unfolds a
record update. -/

namespace Sys2Proof.Machine

section
variable (s : State)

@[simp] theorem State.setSync_sync (v : Sync) : (s.setSync v).fr.sync = v := rfl
@[simp] theorem State.setSync_residual (v : Sync) : (s.setSync v).fr.residual = s.fr.residual := rfl
@[simp] theorem State.setSync_cfg (v : Sync) : (s.setSync v).fr.cfg = s.fr.cfg := rfl
@[simp] theorem State.setSync_params (v : Sync) : (s.setSync v).fr.params = s.fr.params := rfl
@[simp] theorem State.setSync_est (v : Sync) : (s.setSync v).fr.est = s.fr.est := rfl
@[simp] theorem State.setSync_lastFrame (v : Sync) : (s.setSync v).fr.lastFrame = s.fr.lastFrame := rfl
@[simp] theorem State.setSync_lastEstCell (v : Sync) : (s.setSync v).fr.lastEstCell = s.fr.lastEstCell := rfl
@[simp] theorem State.setSync_out (v : Sync) : (s.setSync v).out = s.out := rfl
@[simp] theorem State.setSync_parse (v : Sync) : (s.setSync v).parse = s.parse := rfl
@[simp] theorem State.setSync_status (v : Sync) : (s.setSync v).status = s.status := rfl
@[simp] theorem State.setSync_program (v : Sync) : (s.setSync v).program = s.program := rfl
@[simp] theorem State.setSync_result (v : Sync) : (s.setSync v).result = s.result := rfl
@[simp] theorem State.setSync_impl (v : Sync) : (s.setSync v).impl = s.impl := rfl

@[simp] theorem State.setResidual_sync (v : List Byte) : (s.setResidual v).fr.sync = s.fr.sync := rfl
@[simp] theorem State.setResidual_residual (v : List Byte) : (s.setResidual v).fr.residual = v := rfl
@[simp] theorem State.setResidual_cfg (v : List Byte) : (s.setResidual v).fr.cfg = s.fr.cfg := rfl
@[simp] theorem State.setResidual_params (v : List Byte) : (s.setResidual v).fr.params = s.fr.params := rfl
@[simp] theorem State.setResidual_est (v : List Byte) : (s.setResidual v).fr.est = s.fr.est := rfl
@[simp] theorem State.setResidual_lastFrame (v : List Byte) : (s.setResidual v).fr.lastFrame = s.fr.lastFrame := rfl
@[simp] theorem State.setResidual_lastEstCell (v : List Byte) : (s.setResidual v).fr.lastEstCell = s.fr.lastEstCell := rfl
@[simp] theorem State.setResidual_out (v : List Byte) : (s.setResidual v).out = s.out := rfl
@[simp] theorem State.setResidual_parse (v : List Byte) : (s.setResidual v).parse = s.parse := rfl
@[simp] theorem State.setResidual_status (v : List Byte) : (s.setResidual v).status = s.status := rfl
@[simp] theorem State.setResidual_program (v : List Byte) : (s.setResidual v).program = s.program := rfl
@[simp] theorem State.setResidual_result (v : List Byte) : (s.setResidual v).result = s.result := rfl
@[simp] theorem State.setResidual_impl (v : List Byte) : (s.setResidual v).impl = s.impl := rfl

@[simp] theorem State.setCfg_sync (v : Option ConfigurationFrame) : (s.setCfg v).fr.sync = s.fr.sync := rfl
@[simp] theorem State.setCfg_residual (v : Option ConfigurationFrame) : (s.setCfg v).fr.residual = s.fr.residual := rfl
@[simp] theorem State.setCfg_cfg (v : Option ConfigurationFrame) : (s.setCfg v).fr.cfg = v := rfl
@[simp] theorem State.setCfg_params (v : Option ConfigurationFrame) : (s.setCfg v).fr.params = s.fr.params := rfl
@[simp] theorem State.setCfg_est (v : Option ConfigurationFrame) : (s.setCfg v).fr.est = s.fr.est := rfl
@[simp] theorem State.setCfg_lastFrame (v : Option ConfigurationFrame) : (s.setCfg v).fr.lastFrame = s.fr.lastFrame := rfl
@[simp] theorem State.setCfg_lastEstCell (v : Option ConfigurationFrame) : (s.setCfg v).fr.lastEstCell = s.fr.lastEstCell := rfl
@[simp] theorem State.setCfg_out (v : Option ConfigurationFrame) : (s.setCfg v).out = s.out := rfl
@[simp] theorem State.setCfg_parse (v : Option ConfigurationFrame) : (s.setCfg v).parse = s.parse := rfl
@[simp] theorem State.setCfg_status (v : Option ConfigurationFrame) : (s.setCfg v).status = s.status := rfl
@[simp] theorem State.setCfg_program (v : Option ConfigurationFrame) : (s.setCfg v).program = s.program := rfl
@[simp] theorem State.setCfg_result (v : Option ConfigurationFrame) : (s.setCfg v).result = s.result := rfl
@[simp] theorem State.setCfg_impl (v : Option ConfigurationFrame) : (s.setCfg v).impl = s.impl := rfl

@[simp] theorem State.setParams_sync (v : Option ParamBundle) : (s.setParams v).fr.sync = s.fr.sync := rfl
@[simp] theorem State.setParams_residual (v : Option ParamBundle) : (s.setParams v).fr.residual = s.fr.residual := rfl
@[simp] theorem State.setParams_cfg (v : Option ParamBundle) : (s.setParams v).fr.cfg = s.fr.cfg := rfl
@[simp] theorem State.setParams_params (v : Option ParamBundle) : (s.setParams v).fr.params = v := rfl
@[simp] theorem State.setParams_est (v : Option ParamBundle) : (s.setParams v).fr.est = s.fr.est := rfl
@[simp] theorem State.setParams_lastFrame (v : Option ParamBundle) : (s.setParams v).fr.lastFrame = s.fr.lastFrame := rfl
@[simp] theorem State.setParams_lastEstCell (v : Option ParamBundle) : (s.setParams v).fr.lastEstCell = s.fr.lastEstCell := rfl
@[simp] theorem State.setParams_out (v : Option ParamBundle) : (s.setParams v).out = s.out := rfl
@[simp] theorem State.setParams_parse (v : Option ParamBundle) : (s.setParams v).parse = s.parse := rfl
@[simp] theorem State.setParams_status (v : Option ParamBundle) : (s.setParams v).status = s.status := rfl
@[simp] theorem State.setParams_program (v : Option ParamBundle) : (s.setParams v).program = s.program := rfl
@[simp] theorem State.setParams_result (v : Option ParamBundle) : (s.setParams v).result = s.result := rfl
@[simp] theorem State.setParams_impl (v : Option ParamBundle) : (s.setParams v).impl = s.impl := rfl

@[simp] theorem State.setEst_sync (v : Option Estimator) : (s.setEst v).fr.sync = s.fr.sync := rfl
@[simp] theorem State.setEst_residual (v : Option Estimator) : (s.setEst v).fr.residual = s.fr.residual := rfl
@[simp] theorem State.setEst_cfg (v : Option Estimator) : (s.setEst v).fr.cfg = s.fr.cfg := rfl
@[simp] theorem State.setEst_params (v : Option Estimator) : (s.setEst v).fr.params = s.fr.params := rfl
@[simp] theorem State.setEst_est (v : Option Estimator) : (s.setEst v).fr.est = v := rfl
@[simp] theorem State.setEst_lastFrame (v : Option Estimator) : (s.setEst v).fr.lastFrame = s.fr.lastFrame := rfl
@[simp] theorem State.setEst_lastEstCell (v : Option Estimator) : (s.setEst v).fr.lastEstCell = s.fr.lastEstCell := rfl
@[simp] theorem State.setEst_out (v : Option Estimator) : (s.setEst v).out = s.out := rfl
@[simp] theorem State.setEst_parse (v : Option Estimator) : (s.setEst v).parse = s.parse := rfl
@[simp] theorem State.setEst_status (v : Option Estimator) : (s.setEst v).status = s.status := rfl
@[simp] theorem State.setEst_program (v : Option Estimator) : (s.setEst v).program = s.program := rfl
@[simp] theorem State.setEst_result (v : Option Estimator) : (s.setEst v).result = s.result := rfl
@[simp] theorem State.setEst_impl (v : Option Estimator) : (s.setEst v).impl = s.impl := rfl

@[simp] theorem State.setLastFrame_sync (v : Option DataFrame) : (s.setLastFrame v).fr.sync = s.fr.sync := rfl
@[simp] theorem State.setLastFrame_residual (v : Option DataFrame) : (s.setLastFrame v).fr.residual = s.fr.residual := rfl
@[simp] theorem State.setLastFrame_cfg (v : Option DataFrame) : (s.setLastFrame v).fr.cfg = s.fr.cfg := rfl
@[simp] theorem State.setLastFrame_params (v : Option DataFrame) : (s.setLastFrame v).fr.params = s.fr.params := rfl
@[simp] theorem State.setLastFrame_est (v : Option DataFrame) : (s.setLastFrame v).fr.est = s.fr.est := rfl
@[simp] theorem State.setLastFrame_lastFrame (v : Option DataFrame) : (s.setLastFrame v).fr.lastFrame = v := rfl
@[simp] theorem State.setLastFrame_lastEstCell (v : Option DataFrame) : (s.setLastFrame v).fr.lastEstCell = s.fr.lastEstCell := rfl
@[simp] theorem State.setLastFrame_out (v : Option DataFrame) : (s.setLastFrame v).out = s.out := rfl
@[simp] theorem State.setLastFrame_parse (v : Option DataFrame) : (s.setLastFrame v).parse = s.parse := rfl
@[simp] theorem State.setLastFrame_status (v : Option DataFrame) : (s.setLastFrame v).status = s.status := rfl
@[simp] theorem State.setLastFrame_program (v : Option DataFrame) : (s.setLastFrame v).program = s.program := rfl
@[simp] theorem State.setLastFrame_result (v : Option DataFrame) : (s.setLastFrame v).result = s.result := rfl
@[simp] theorem State.setLastFrame_impl (v : Option DataFrame) : (s.setLastFrame v).impl = s.impl := rfl

@[simp] theorem State.setLastEstCell_sync (v : Option EstimatedCell) : (s.setLastEstCell v).fr.sync = s.fr.sync := rfl
@[simp] theorem State.setLastEstCell_residual (v : Option EstimatedCell) : (s.setLastEstCell v).fr.residual = s.fr.residual := rfl
@[simp] theorem State.setLastEstCell_cfg (v : Option EstimatedCell) : (s.setLastEstCell v).fr.cfg = s.fr.cfg := rfl
@[simp] theorem State.setLastEstCell_params (v : Option EstimatedCell) : (s.setLastEstCell v).fr.params = s.fr.params := rfl
@[simp] theorem State.setLastEstCell_est (v : Option EstimatedCell) : (s.setLastEstCell v).fr.est = s.fr.est := rfl
@[simp] theorem State.setLastEstCell_lastFrame (v : Option EstimatedCell) : (s.setLastEstCell v).fr.lastFrame = s.fr.lastFrame := rfl
@[simp] theorem State.setLastEstCell_lastEstCell (v : Option EstimatedCell) : (s.setLastEstCell v).fr.lastEstCell = v := rfl
@[simp] theorem State.setLastEstCell_out (v : Option EstimatedCell) : (s.setLastEstCell v).out = s.out := rfl
@[simp] theorem State.setLastEstCell_parse (v : Option EstimatedCell) : (s.setLastEstCell v).parse = s.parse := rfl
@[simp] theorem State.setLastEstCell_status (v : Option EstimatedCell) : (s.setLastEstCell v).status = s.status := rfl
@[simp] theorem State.setLastEstCell_program (v : Option EstimatedCell) : (s.setLastEstCell v).program = s.program := rfl
@[simp] theorem State.setLastEstCell_result (v : Option EstimatedCell) : (s.setLastEstCell v).result = s.result := rfl
@[simp] theorem State.setLastEstCell_impl (v : Option EstimatedCell) : (s.setLastEstCell v).impl = s.impl := rfl

@[simp] theorem State.setParse_sync (v : Option ParseCtx) : (s.setParse v).fr.sync = s.fr.sync := rfl
@[simp] theorem State.setParse_residual (v : Option ParseCtx) : (s.setParse v).fr.residual = s.fr.residual := rfl
@[simp] theorem State.setParse_cfg (v : Option ParseCtx) : (s.setParse v).fr.cfg = s.fr.cfg := rfl
@[simp] theorem State.setParse_params (v : Option ParseCtx) : (s.setParse v).fr.params = s.fr.params := rfl
@[simp] theorem State.setParse_est (v : Option ParseCtx) : (s.setParse v).fr.est = s.fr.est := rfl
@[simp] theorem State.setParse_lastFrame (v : Option ParseCtx) : (s.setParse v).fr.lastFrame = s.fr.lastFrame := rfl
@[simp] theorem State.setParse_lastEstCell (v : Option ParseCtx) : (s.setParse v).fr.lastEstCell = s.fr.lastEstCell := rfl
@[simp] theorem State.setParse_out (v : Option ParseCtx) : (s.setParse v).out = s.out := rfl
@[simp] theorem State.setParse_parse (v : Option ParseCtx) : (s.setParse v).parse = v := rfl
@[simp] theorem State.setParse_status (v : Option ParseCtx) : (s.setParse v).status = s.status := rfl
@[simp] theorem State.setParse_program (v : Option ParseCtx) : (s.setParse v).program = s.program := rfl
@[simp] theorem State.setParse_result (v : Option ParseCtx) : (s.setParse v).result = s.result := rfl
@[simp] theorem State.setParse_impl (v : Option ParseCtx) : (s.setParse v).impl = s.impl := rfl
@[simp] theorem State.setParse_fr (v : Option ParseCtx) : (s.setParse v).fr = s.fr := rfl

@[simp] theorem State.setStatus_sync (v : CmdStatus) : (s.setStatus v).fr.sync = s.fr.sync := rfl
@[simp] theorem State.setStatus_residual (v : CmdStatus) : (s.setStatus v).fr.residual = s.fr.residual := rfl
@[simp] theorem State.setStatus_cfg (v : CmdStatus) : (s.setStatus v).fr.cfg = s.fr.cfg := rfl
@[simp] theorem State.setStatus_params (v : CmdStatus) : (s.setStatus v).fr.params = s.fr.params := rfl
@[simp] theorem State.setStatus_est (v : CmdStatus) : (s.setStatus v).fr.est = s.fr.est := rfl
@[simp] theorem State.setStatus_lastFrame (v : CmdStatus) : (s.setStatus v).fr.lastFrame = s.fr.lastFrame := rfl
@[simp] theorem State.setStatus_lastEstCell (v : CmdStatus) : (s.setStatus v).fr.lastEstCell = s.fr.lastEstCell := rfl
@[simp] theorem State.setStatus_out (v : CmdStatus) : (s.setStatus v).out = s.out := rfl
@[simp] theorem State.setStatus_parse (v : CmdStatus) : (s.setStatus v).parse = s.parse := rfl
@[simp] theorem State.setStatus_status (v : CmdStatus) : (s.setStatus v).status = some v := rfl
@[simp] theorem State.setStatus_program (v : CmdStatus) : (s.setStatus v).program = s.program := rfl
@[simp] theorem State.setStatus_result (v : CmdStatus) : (s.setStatus v).result = s.result := rfl
@[simp] theorem State.setStatus_impl (v : CmdStatus) : (s.setStatus v).impl = s.impl := rfl
@[simp] theorem State.setStatus_fr (v : CmdStatus) : (s.setStatus v).fr = s.fr := rfl

@[simp] theorem State.setResult_sync (v : OpResult) : (s.setResult v).fr.sync = s.fr.sync := rfl
@[simp] theorem State.setResult_residual (v : OpResult) : (s.setResult v).fr.residual = s.fr.residual := rfl
@[simp] theorem State.setResult_cfg (v : OpResult) : (s.setResult v).fr.cfg = s.fr.cfg := rfl
@[simp] theorem State.setResult_params (v : OpResult) : (s.setResult v).fr.params = s.fr.params := rfl
@[simp] theorem State.setResult_est (v : OpResult) : (s.setResult v).fr.est = s.fr.est := rfl
@[simp] theorem State.setResult_lastFrame (v : OpResult) : (s.setResult v).fr.lastFrame = s.fr.lastFrame := rfl
@[simp] theorem State.setResult_lastEstCell (v : OpResult) : (s.setResult v).fr.lastEstCell = s.fr.lastEstCell := rfl
@[simp] theorem State.setResult_out (v : OpResult) : (s.setResult v).out = s.out := rfl
@[simp] theorem State.setResult_parse (v : OpResult) : (s.setResult v).parse = s.parse := rfl
@[simp] theorem State.setResult_status (v : OpResult) : (s.setResult v).status = s.status := rfl
@[simp] theorem State.setResult_program (v : OpResult) : (s.setResult v).program = s.program := rfl
@[simp] theorem State.setResult_result (v : OpResult) : (s.setResult v).result = v := rfl
@[simp] theorem State.setResult_impl (v : OpResult) : (s.setResult v).impl = s.impl := rfl
@[simp] theorem State.setResult_fr (v : OpResult) : (s.setResult v).fr = s.fr := rfl

@[simp] theorem State.setProgram_sync (v : List Command) : (s.setProgram v).fr.sync = s.fr.sync := rfl
@[simp] theorem State.setProgram_residual (v : List Command) : (s.setProgram v).fr.residual = s.fr.residual := rfl
@[simp] theorem State.setProgram_cfg (v : List Command) : (s.setProgram v).fr.cfg = s.fr.cfg := rfl
@[simp] theorem State.setProgram_params (v : List Command) : (s.setProgram v).fr.params = s.fr.params := rfl
@[simp] theorem State.setProgram_est (v : List Command) : (s.setProgram v).fr.est = s.fr.est := rfl
@[simp] theorem State.setProgram_lastFrame (v : List Command) : (s.setProgram v).fr.lastFrame = s.fr.lastFrame := rfl
@[simp] theorem State.setProgram_lastEstCell (v : List Command) : (s.setProgram v).fr.lastEstCell = s.fr.lastEstCell := rfl
@[simp] theorem State.setProgram_out (v : List Command) : (s.setProgram v).out = s.out := rfl
@[simp] theorem State.setProgram_parse (v : List Command) : (s.setProgram v).parse = s.parse := rfl
@[simp] theorem State.setProgram_status (v : List Command) : (s.setProgram v).status = s.status := rfl
@[simp] theorem State.setProgram_program (v : List Command) : (s.setProgram v).program = v := rfl
@[simp] theorem State.setProgram_result (v : List Command) : (s.setProgram v).result = s.result := rfl
@[simp] theorem State.setProgram_impl (v : List Command) : (s.setProgram v).impl = s.impl := rfl
@[simp] theorem State.setProgram_fr (v : List Command) : (s.setProgram v).fr = s.fr := rfl

@[simp] theorem State.emit_sync (v : Event) : (s.emit v).fr.sync = s.fr.sync := rfl
@[simp] theorem State.emit_residual (v : Event) : (s.emit v).fr.residual = s.fr.residual := rfl
@[simp] theorem State.emit_cfg (v : Event) : (s.emit v).fr.cfg = s.fr.cfg := rfl
@[simp] theorem State.emit_params (v : Event) : (s.emit v).fr.params = s.fr.params := rfl
@[simp] theorem State.emit_est (v : Event) : (s.emit v).fr.est = s.fr.est := rfl
@[simp] theorem State.emit_lastFrame (v : Event) : (s.emit v).fr.lastFrame = s.fr.lastFrame := rfl
@[simp] theorem State.emit_lastEstCell (v : Event) : (s.emit v).fr.lastEstCell = s.fr.lastEstCell := rfl
@[simp] theorem State.emit_out (v : Event) : (s.emit v).out = s.out ++ [v] := rfl
@[simp] theorem State.emit_parse (v : Event) : (s.emit v).parse = s.parse := rfl
@[simp] theorem State.emit_status (v : Event) : (s.emit v).status = s.status := rfl
@[simp] theorem State.emit_program (v : Event) : (s.emit v).program = s.program := rfl
@[simp] theorem State.emit_result (v : Event) : (s.emit v).result = s.result := rfl
@[simp] theorem State.emit_impl (v : Event) : (s.emit v).impl = s.impl := rfl
@[simp] theorem State.emit_fr (v : Event) : (s.emit v).fr = s.fr := rfl

end

end Sys2Proof.Machine
end

