-- ==== Sys2Proof/Laws/Ops.lean ====
section
/-! SUPPORT. For each shared operation one lemma that says once everything it can do; proofs cite these instead of
unfolding the operation. -/

namespace Sys2Proof.Machine

/-! Per-channel tables. -/

@[simp] theorem perChannel_get_ofFn {α : Type} (f : Channel → α) (c : Channel) : (PerChannel.ofFn f).get c = f c := by
  cases c <;> rfl

theorem perChannel_ext {α : Type} {a b : PerChannel α} (h : ∀ c, a.get c = b.get c) : a = b := by
  cases a; cases b
  have h0 := h .ia; have h1 := h .ib; have h2 := h .ic; have h3 := h .va; have h4 := h .vb; have h5 := h .vc
  simp only [PerChannel.get] at h0 h1 h2 h3 h4 h5
  simp [h0, h1, h2, h3, h4, h5]

theorem perChannel_mem_toList {α : Type} {t : PerChannel α} {a : α} : a ∈ t.toList ↔ ∃ c, t.get c = a := by
  constructor
  · intro h
    simp only [PerChannel.toList, List.mem_cons, List.not_mem_nil, or_false] at h
    rcases h with h | h | h | h | h | h
    · exact ⟨.ia, h.symm⟩
    · exact ⟨.ib, h.symm⟩
    · exact ⟨.ic, h.symm⟩
    · exact ⟨.va, h.symm⟩
    · exact ⟨.vb, h.symm⟩
    · exact ⟨.vc, h.symm⟩
  · rintro ⟨c, rfl⟩
    cases c <;> simp [PerChannel.toList, PerChannel.get]

/-! The exception entry. -/

/-- The whole effect of taking a decode exception. -/
theorem takeException_eq (r : Raise) (s : State) :
    takeException r s =
      { s with
        fr := { s.fr with sync := .unsynchronized, residual := [] }
        out := s.out ++ [.parsingException r.exc r.info] } := rfl

/-- The whole effect of a command-time error. -/
theorem commandError_eq (e : Exc) (s : State) : commandError e s = { s with status := some (.error e) } := rfl

theorem finish_next {s t : State} {r : Except Raise State} :
    finish s r = .next t ↔ r = .ok t ∨ ∃ x, r = .error x ∧ t = takeException x s := by
  cases r with
  | ok a => simp [finish]
  | error x => simp [finish, eq_comm]

theorem finishValue_next {α : Type} {s t : State} {w : α → OpResult} {r : Except Raise α} :
    finishValue s w r = .next t ↔
      (∃ v, r = .ok v ∧ t = s.setResult (w v)) ∨ ∃ x, r = .error x ∧ t = takeException x s := by
  cases r with
  | ok a => simp [finishValue, eq_comm]
  | error x => simp [finishValue, eq_comm]

/-! Bounded reads. -/

theorem memRead_ok {img : List Byte} {p fl a n v : Nat} :
    memRead img p fl a n = .ok v ↔ (p ≤ a ∧ a + n ≤ p + fl ∧ a + n ≤ img.length) ∧ v = beAt img a n := by
  unfold memRead
  split
  · next h => simp [h, eq_comm]
  · next h => simp [h]

theorem memRead_error {img : List Byte} {p fl a n : Nat} {r : Raise} :
    memRead img p fl a n = .error r ↔
      ¬(p ≤ a ∧ a + n ≤ p + fl ∧ a + n ≤ img.length) ∧ r = ⟨.insufficientLength, p⟩ := by
  unfold memRead
  split
  · next h => simp [h]
  · next h => simp [h, eq_comm]

/-! The header. -/

/-- Everything a successful HDR says (R34, R180, R182). -/
theorem header_ok {m : Option Nat} {img : List Byte} {p avail : Nat} {h : Header} (hh : header m img p avail = .ok h) :
    16 ≤ avail ∧ p + 16 ≤ img.length ∧ h = readHeader img p ∧ beU8 img (p + 1) = 0x01#8 ∧
      (beU8 img p = 0x00#8 ∨ beU8 img p = 0x01#8) ∧ 16 ≤ h.frameLength ∧ ∀ k, m = some k → h.frameLength ≤ k := by
  unfold header at hh
  split at hh
  · cases hh
  · next h1 =>
    split at hh
    · cases hh
    · next h2 =>
      split at hh
      · cases hh
      · next h3 =>
        dsimp only at hh
        split at hh
        · next h4 =>
          cases hh
          simp only [frameLengthOk, Bool.and_eq_true, decide_eq_true_eq] at h4
          refine ⟨by omega, by omega, rfl, by simpa using h2, ?_, h4.1, ?_⟩
          · by_cases h0 : beU8 img p = 0x00#8
            · exact .inl h0
            · exact .inr (by simpa [h0] using h3)
          · rintro k rfl
            simpa using h4.2
        · cases hh

/-- HDR raises with the offset it was given. -/
theorem header_error_info {m : Option Nat} {img : List Byte} {p avail : Nat} {r : Raise}
    (hh : header m img p avail = .error r) : r.info = p := by
  unfold header at hh
  dsimp only at hh
  split at hh
  · cases hh; rfl
  · split at hh
    · cases hh; rfl
    · split at hh
      · cases hh; rfl
      · split at hh
        · cases hh
        · cases hh; rfl

/-! SCAN. -/

theorem scanBytes_ge {l : List Byte} {a p : Nat} (h : scanBytes l a = some p) : a ≤ p ∧ p + 1 < a + l.length := by
  induction l generalizing a with
  | nil => simp [scanBytes] at h
  | cons x t ih =>
    cases t with
    | nil => simp [scanBytes] at h
    | cons y t =>
      unfold scanBytes at h
      split at h
      · cases h; simp
      · have := ih h
        simp only [List.length_cons] at this ⊢
        omega

theorem scan_bounds {img : List Byte} {a p : Nat} (h : scan img a = some p) : a ≤ p ∧ p + 1 < img.length := by
  have := scanBytes_ge h
  simp only [List.length_drop] at this
  omega

/-! Frames. -/

/-- CFG commits a decoded frame or raises (R190, R202). -/
theorem configFrame_ok {img : List Byte} {p : Nat} {h : Header} {s t : State} :
    configFrame img p h s = .ok t ↔ ∃ f, decodeConfig img p h = .ok f ∧ t = commitConfig f s := by
  unfold configFrame
  cases decodeConfig img p h with
  | ok f => simp [Except.map, eq_comm]
  | error r => simp [Except.map]

/-- What APPLY can do: skip, or step the estimator and then treat its answer (R218). -/
theorem applyEstimate_cases (f : DataFrame) (s : State) :
    applyEstimate f s = (f, s) ∨
      ∃ b, s.fr.params = some b ∧ applySkips (some b) f = false ∧
        applyEstimate f s =
          applyAnswer b (estStep Trig.block (lazyEstimator s b) (inputs s f) f.timestamp).2 f
            (s.setEst (some (estStep Trig.block (lazyEstimator s b) (inputs s f) f.timestamp).1)) := by
  unfold applyEstimate
  cases hp : s.fr.params with
  | none => exact .inl rfl
  | some b =>
    by_cases hs : applySkips (some b) f = true
    · exact .inl (by simp [hs])
    · exact .inr ⟨b, rfl, by simpa using hs, by simp [hs]⟩

/-- What APPLY does with an answer changes at most the frame and the retained cell. -/
theorem applyAnswer_state (b : ParamBundle) (r : Option PhaseEstimate) (f : DataFrame) (s : State) :
    (applyAnswer b r f s).2 = s ∨ ∃ c, (applyAnswer b r f s).2 = s.setLastEstCell (some c) := by
  unfold applyAnswer
  split
  · exact .inr ⟨_, rfl⟩
  · split
    · exact .inl rfl
    · exact .inl rfl

/-! Memory. -/

theorem memory_risingFrom_cellsFrom (a : Nat) (m : Memory) :
    Memory.risingFrom a (Memory.cellsFrom a m) = true := by
  induction m generalizing a with
  | nil => rfl
  | cons b t ih => simp [Memory.cellsFrom, Memory.risingFrom, ih]

/-- Every byte memory is in its canonical form, whatever operation made it. -/
theorem memory_wf (m : Memory) : Memory.wf m = true := memory_risingFrom_cellsFrom 0 m

/-- Equal memories are equal data: a memory is determined by what its addresses read as. -/
theorem memory_ext {m n : Memory} (h : ∀ a, Memory.read m a = Memory.read n a) : m = n := List.ext_getElem? h

end Sys2Proof.Machine
end

