-- ==== Sys2Proof/Laws/Estimator.lean ====
section
/-! SUPPORT. What the estimator's parts write (45_estimator R263): constants and tables never, and of the variable
state only what each part names. -/

namespace Sys2Proof.Machine

/-- Inside a buffer or a table an entry is the list's own; no free value shows. -/
theorem entry_of_lt {t : List F64} {n : Nat} (h : n < t.length) : entry t n = t[n] := by
  simp [entry, List.getD, h]

/-- The sample about to be replaced is the buffer's own entry at the write index (R84, R246). -/
theorem oldSamples_get {e : Estimator} {c : Channel} (h : e.vars.wr < (e.vars.buf.get c).length) (d : F64) :
    (oldSamples e).get c = (e.vars.buf.get c).getD e.vars.wr d := by
  simp [oldSamples, entry_of_lt h, List.getD, h]

@[simp] theorem fill_const (e : Estimator) (x : PerChannel F64) : (fill e x).const = e.const := rfl
@[simp] theorem fill_total (e : Estimator) (x : PerChannel F64) : (fill e x).vars.total = e.vars.total + 1 := rfl
@[simp] theorem fill_wr (e : Estimator) (x : PerChannel F64) : (fill e x).vars.wr = (e.vars.wr + 1) % e.const.N := rfl
@[simp] theorem fill_sinceRecalc (e : Estimator) (x : PerChannel F64) :
    (fill e x).vars.sinceRecalc = e.vars.sinceRecalc := rfl
@[simp] theorem fill_prevPhase (e : Estimator) (x : PerChannel F64) : (fill e x).vars.prevPhase = e.vars.prevPhase := rfl
@[simp] theorem fill_prevTs (e : Estimator) (x : PerChannel F64) : (fill e x).vars.prevTs = e.vars.prevTs := rfl
@[simp] theorem fill_buf (e : Estimator) (x : PerChannel F64) (c : Channel) :
    (fill e x).vars.buf.get c = (e.vars.buf.get c).set e.vars.wr (x.get c) := by simp [fill]

@[simp] theorem storeSample_const (e : Estimator) (x : PerChannel F64) : (storeSample e x).const = e.const := rfl
@[simp] theorem storeSample_total (e : Estimator) (x : PerChannel F64) :
    (storeSample e x).vars.total = e.vars.total + 1 := rfl
@[simp] theorem storeSample_wr (e : Estimator) (x : PerChannel F64) :
    (storeSample e x).vars.wr = (e.vars.wr + 1) % e.const.N := rfl
@[simp] theorem storeSample_sinceRecalc (e : Estimator) (x : PerChannel F64) :
    (storeSample e x).vars.sinceRecalc = e.vars.sinceRecalc + 1 := rfl
@[simp] theorem storeSample_prevPhase (e : Estimator) (x : PerChannel F64) :
    (storeSample e x).vars.prevPhase = e.vars.prevPhase := rfl
@[simp] theorem storeSample_prevTs (e : Estimator) (x : PerChannel F64) :
    (storeSample e x).vars.prevTs = e.vars.prevTs := rfl
@[simp] theorem storeSample_buf (e : Estimator) (x : PerChannel F64) (c : Channel) :
    (storeSample e x).vars.buf.get c = (e.vars.buf.get c).set e.vars.wr (x.get c) := by simp [storeSample]

@[simp] theorem recompute_const (e : Estimator) : (recompute e).const = e.const := rfl
@[simp] theorem reanchor_const (e : Estimator) : (reanchor e).const = e.const := rfl
@[simp] theorem reanchor_total (e : Estimator) : (reanchor e).vars.total = e.vars.total := rfl
@[simp] theorem reanchor_wr (e : Estimator) : (reanchor e).vars.wr = e.vars.wr := rfl
@[simp] theorem reanchor_buf (e : Estimator) : (reanchor e).vars.buf = e.vars.buf := rfl
@[simp] theorem reanchor_sinceRecalc (e : Estimator) : (reanchor e).vars.sinceRecalc = 0 := rfl
@[simp] theorem reanchor_prevPhase (e : Estimator) : (reanchor e).vars.prevPhase = e.vars.prevPhase := rfl
@[simp] theorem reanchor_prevTs (e : Estimator) : (reanchor e).vars.prevTs = e.vars.prevTs := rfl

@[simp] theorem slide_const (e : Estimator) (x old : PerChannel F64) : (slide e x old).const = e.const := rfl
@[simp] theorem slide_total (e : Estimator) (x old : PerChannel F64) : (slide e x old).vars.total = e.vars.total := rfl
@[simp] theorem slide_wr (e : Estimator) (x old : PerChannel F64) : (slide e x old).vars.wr = e.vars.wr := rfl
@[simp] theorem slide_buf (e : Estimator) (x old : PerChannel F64) : (slide e x old).vars.buf = e.vars.buf := rfl
@[simp] theorem slide_sinceRecalc (e : Estimator) (x old : PerChannel F64) :
    (slide e x old).vars.sinceRecalc = e.vars.sinceRecalc := rfl
@[simp] theorem slide_prevPhase (e : Estimator) (x old : PerChannel F64) :
    (slide e x old).vars.prevPhase = e.vars.prevPhase := rfl
@[simp] theorem slide_prevTs (e : Estimator) (x old : PerChannel F64) :
    (slide e x old).vars.prevTs = e.vars.prevTs := rfl

/-- The smoothing part writes the frequency, its seed flag and the ROCOF only. -/
theorem smooth_frame (k : EstConstants) (v : EstVars) (inst dt : F64) :
    smooth k v inst dt =
      { v with smoothedFreq := (smooth k v inst dt).smoothedFreq, freqSeeded := true
               rocof := (smooth k v inst dt).rocof } := by
  unfold smooth
  split <;> simp_all

/-- TRACK writes the tracking registers only (R260). -/
theorem track_frame (e : Estimator) (a : F64) (ts : I64) :
    track e a ts =
      { e with vars := { e.vars with
          prevPhase := some a
          prevTs := some ts
          smoothedFreq := (track e a ts).vars.smoothedFreq
          freqSeeded := (track e a ts).vars.freqSeeded
          rocof := (track e a ts).vars.rocof } } := by
  unfold track
  cases e.vars.prevPhase with
  | none => rfl
  | some ph =>
    dsimp only
    rw [smooth_frame]

@[simp] theorem track_const (e : Estimator) (a : F64) (ts : I64) : (track e a ts).const = e.const := rfl
@[simp] theorem track_total (e : Estimator) (a : F64) (ts : I64) : (track e a ts).vars.total = e.vars.total := by
  rw [track_frame]
@[simp] theorem track_wr (e : Estimator) (a : F64) (ts : I64) : (track e a ts).vars.wr = e.vars.wr := by
  rw [track_frame]
@[simp] theorem track_buf (e : Estimator) (a : F64) (ts : I64) : (track e a ts).vars.buf = e.vars.buf := by
  rw [track_frame]
@[simp] theorem track_sinceRecalc (e : Estimator) (a : F64) (ts : I64) :
    (track e a ts).vars.sinceRecalc = e.vars.sinceRecalc := by rw [track_frame]
@[simp] theorem track_prevPhase (e : Estimator) (a : F64) (ts : I64) : (track e a ts).vars.prevPhase = some a := rfl
@[simp] theorem track_prevTs (e : Estimator) (a : F64) (ts : I64) : (track e a ts).vars.prevTs = some ts := rfl

/-- Part A of a step: still filling, the fill just completed, a recomputation, or a slide (R246). -/
theorem takeSample_cases (e : Estimator) (x : PerChannel F64) :
    (e.vars.total + 1 < e.const.N ∧ takeSample e x = fill e x) ∨
    (e.vars.total < e.const.N ∧ e.const.N ≤ e.vars.total + 1 ∧ takeSample e x = reanchor (fill e x)) ∨
    (e.const.N ≤ e.vars.total ∧ e.const.R ≤ e.vars.sinceRecalc + 1 ∧ takeSample e x = reanchor (storeSample e x)) ∨
    (e.const.N ≤ e.vars.total ∧ e.vars.sinceRecalc + 1 < e.const.R ∧
      takeSample e x = slide (storeSample e x) x (oldSamples e)) := by
  by_cases h : e.vars.total < e.const.N
  · by_cases h' : e.vars.total + 1 < e.const.N
    · exact .inl ⟨h', by simp [takeSample, h, h']⟩
    · exact .inr (.inl ⟨h, by omega, by simp [takeSample, h, h']⟩)
  · by_cases h' : e.const.R ≤ e.vars.sinceRecalc + 1
    · exact .inr (.inr (.inl ⟨by omega, h', by simp [takeSample, h, h', recalcDue]⟩))
    · exact .inr (.inr (.inr ⟨by omega, by omega, by simp [takeSample, h, h', recalcDue]⟩))

@[simp] theorem takeSample_const (e : Estimator) (x : PerChannel F64) : (takeSample e x).const = e.const := by
  rcases takeSample_cases e x with ⟨_, h⟩ | ⟨_, _, h⟩ | ⟨_, _, h⟩ | ⟨_, _, h⟩ <;> simp [h]

@[simp] theorem takeSample_total (e : Estimator) (x : PerChannel F64) :
    (takeSample e x).vars.total = e.vars.total + 1 := by
  rcases takeSample_cases e x with ⟨_, h⟩ | ⟨_, _, h⟩ | ⟨_, _, h⟩ | ⟨_, _, h⟩ <;> simp [h]

@[simp] theorem takeSample_prevPhase (e : Estimator) (x : PerChannel F64) :
    (takeSample e x).vars.prevPhase = e.vars.prevPhase := by
  rcases takeSample_cases e x with ⟨_, h⟩ | ⟨_, _, h⟩ | ⟨_, _, h⟩ | ⟨_, _, h⟩ <;> simp [h]

@[simp] theorem takeSample_prevTs (e : Estimator) (x : PerChannel F64) :
    (takeSample e x).vars.prevTs = e.vars.prevTs := by
  rcases takeSample_cases e x with ⟨_, h⟩ | ⟨_, _, h⟩ | ⟨_, _, h⟩ | ⟨_, _, h⟩ <;> simp [h]

@[simp] theorem takeSample_wr (e : Estimator) (x : PerChannel F64) :
    (takeSample e x).vars.wr = (e.vars.wr + 1) % e.const.N := by
  rcases takeSample_cases e x with ⟨_, h⟩ | ⟨_, _, h⟩ | ⟨_, _, h⟩ | ⟨_, _, h⟩ <;> simp [h]

@[simp] theorem takeSample_buf (e : Estimator) (x : PerChannel F64) (c : Channel) :
    (takeSample e x).vars.buf.get c = (e.vars.buf.get c).set e.vars.wr (x.get c) := by
  rcases takeSample_cases e x with ⟨_, h⟩ | ⟨_, _, h⟩ | ⟨_, _, h⟩ | ⟨_, _, h⟩ <;> simp [h]

/-- A step either only fills, or takes the sample and then extracts and tracks (R246). -/
theorem estStep_cases (T : Trig) (e : Estimator) (x : PerChannel F64) (ts : I64) :
    (e.vars.total + 1 < e.const.N ∧ estStep T e x ts = (takeSample e x, none)) ∨
    (e.const.N ≤ e.vars.total + 1 ∧ estStep T e x ts = extractAndTrack T (takeSample e x) ts) := by
  by_cases h : e.const.N ≤ e.vars.total + 1
  · exact .inr ⟨h, by simp [estStep, filled, h]⟩
  · exact .inl ⟨by omega, by simp [estStep, filled, h]⟩

/-- A step never writes the constants or the tables (R263). -/
@[simp] theorem estStep_const (T : Trig) (e : Estimator) (x : PerChannel F64) (ts : I64) :
    (estStep T e x ts).1.const = e.const := by
  rcases estStep_cases T e x ts with ⟨_, h⟩ | ⟨_, h⟩ <;> simp [h, extractAndTrack]

@[simp] theorem estStep_total (T : Trig) (e : Estimator) (x : PerChannel F64) (ts : I64) :
    (estStep T e x ts).1.vars.total = e.vars.total + 1 := by
  rcases estStep_cases T e x ts with ⟨_, h⟩ | ⟨_, h⟩ <;> simp [h, extractAndTrack]

/-- EST.RESET of an estimator that has kept its constants is what EST.NEW returned (R264). -/
theorem estReset_of_const {T : Trig} {b : ParamBundle} {e : Estimator} (h : e.const = estConstants T b) :
    estReset e = estBuild T b := by
  simp [estReset, estBuild, h]

/-! The life of an estimator (R54 I4, I5). -/

/-- A life goes on by one action at its end. -/
theorem estLife_snoc (T : Trig) (p : Estimator × Option EstimatedCell) (acts : List EstAction) (a : EstAction) :
    estLife T p (acts ++ [a]) = estAct T (estLife T p acts) a := by
  induction acts generalizing p with
  | nil => rfl
  | cons b rest ih => exact ih (estAct T p b)

/-- No action writes the constants or the tables. -/
@[simp] theorem estAct_const (T : Trig) (p : Estimator × Option EstimatedCell) (a : EstAction) :
    (estAct T p a).1.const = p.1.const := by
  cases a with
  | step x ts => exact estStep_const T p.1 x ts
  | reset => rfl

/-- An estimator has, all its life, the constants and tables it was built with (R51). -/
@[simp] theorem estLife_const (T : Trig) (p : Estimator × Option EstimatedCell) (acts : List EstAction) :
    (estLife T p acts).1.const = p.1.const := by
  induction acts generalizing p with
  | nil => rfl
  | cons b rest ih => exact (ih _).trans (estAct_const T p b)

/-- What one action makes of the retained cell: it is kept, or it is the cell of the estimate the step published. -/
theorem estAct_cell (T : Trig) (p : Estimator × Option EstimatedCell) (a : EstAction) :
    (estAct T p a).2 = p.2 ∨
      ∃ x ts est, a = .step x ts ∧ (estStep T p.1 x ts).2 = some est ∧ (estAct T p a).2 = some (publishedCell est) := by
  cases a with
  | reset => exact .inl rfl
  | step x ts =>
    cases h : (estStep T p.1 x ts).2 with
    | none => exact .inl (by simp [estAct, h])
    | some est => exact .inr ⟨x, ts, est, rfl, h, by simp [estAct, h]⟩

/-- A retained cell is the cell of an estimate that a step of this life published (R54 I5). -/
theorem estLife_cell {T : Trig} {e₀ : Estimator} {acts : List EstAction} {c : EstimatedCell}
    (h : (estLife T (e₀, none) acts).2 = some c) :
    ∃ before x ts later est, acts = before ++ .step x ts :: later ∧
      (estStep T (estLife T (e₀, none) before).1 x ts).2 = some est ∧ c = publishedCell est := by
  induction acts using List.reverseRecOn with
  | nil => cases h
  | append_singleton acts a ih =>
    rw [estLife_snoc] at h
    rcases estAct_cell T (estLife T (e₀, none) acts) a with hk | ⟨x, ts, est, rfl, hs, hc⟩
    · obtain ⟨before, x, ts, later, est, rfl, hs, rfl⟩ := ih (hk ▸ h)
      exact ⟨before, x, ts, later ++ [a], est, by simp, hs, rfl⟩
    · exact ⟨acts, x, ts, [], est, rfl, hs, Option.some.inj (h.symm.trans hc)⟩

end Sys2Proof.Machine
end

