-- ==== Sys2Proof/Laws/Parse.lean ====
section
/-! SUPPORT. The dispatch loop of PARSE (41_framer): what one pass can do, and that frames leave the framing state
alone. -/

namespace Sys2Proof.Machine

/-- APPLY writes the estimator and the retained cell only. -/
theorem applyEstimate_frame (f : DataFrame) (s : State) :
    (applyEstimate f s).2 =
      { s with fr := { s.fr with
          est := (applyEstimate f s).2.fr.est
          lastEstCell := (applyEstimate f s).2.fr.lastEstCell } } := by
  rcases applyEstimate_cases f s with h | ⟨b, _, _, h⟩
  · rw [h]
  · rw [h]
    rcases applyAnswer_state b (estStep Trig.block (lazyEstimator s b) (inputs s f) f.timestamp).2 f
      (s.setEst (some (estStep Trig.block (lazyEstimator s b) (inputs s f) f.timestamp).1)) with h' | ⟨c, h'⟩ <;>
      rw [h'] <;> rfl

/-- What APPLY does with an answer, seen from the retained cell: the cell of the estimate, or the cell as it was. -/
theorem applyAnswer_lastEstCell (b : ParamBundle) (r : Option PhaseEstimate) (f : DataFrame) (s : State) :
    (applyAnswer b r f s).2.fr = { s.fr with lastEstCell := match r with
      | some est => some (publishedCell est)
      | none => s.fr.lastEstCell } := by
  cases r with
  | some est => rfl
  | none =>
    unfold applyAnswer
    dsimp only
    split <;> rfl

/-- APPLY keeps where the estimator and the retained cell come from: it leaves both, or it is one more step of the
estimator's life, begun with the bundle in force if there was none (R54 I4, I5). -/
theorem applyEstimate_history {f : DataFrame} {s : State}
    (hb : ∀ b, s.fr.params = some b → validBundle s.impl.maxWindow b = true)
    (hc : s.fr.lastEstCell ≠ none → s.fr.est ≠ none) (hh : s.EstHistory) : (applyEstimate f s).2.EstHistory := by
  rcases applyEstimate_cases f s with h | ⟨b, hp, _, h⟩
  · rwa [h]
  have himpl : (applyEstimate f s).2.impl = s.impl := by rw [applyEstimate_frame]
  have hlife : ∃ b' acts, validBundle s.impl.maxWindow b' = true ∧
      estLife Trig.block (estBuild Trig.block b', none) acts = (lazyEstimator s b, s.fr.lastEstCell) := by
    unfold lazyEstimator
    cases he : s.fr.est with
    | some e => exact hh e he
    | none =>
      have hn : s.fr.lastEstCell = none := by_contra fun h => hc h he
      exact ⟨b, [], hb b hp, by rw [hn]; rfl⟩
  obtain ⟨b', acts, hv, hl⟩ := hlife
  intro e he
  refine ⟨b', acts ++ [.step (inputs s f) f.timestamp], himpl ▸ hv, ?_⟩
  have hfr := congrArg (fun r : DataFrame × State => r.2.fr) h
  rw [applyAnswer_lastEstCell] at hfr
  rw [hfr] at he ⊢
  rw [estLife_snoc, hl]
  exact congrArg₂ Prod.mk (Option.some.inj he) rfl

/-- EST.RESET of the estimator held is one more action of its life (R145, R264). -/
theorem estReset_history {s : State} {e : Estimator} (he : s.fr.est = some e) (hh : s.EstHistory) :
    (s.setEst (some (estReset e))).EstHistory := by
  obtain ⟨b, acts, hv, hl⟩ := hh e he
  rintro e' he'
  obtain rfl : estReset e = e' := Option.some.inj he'
  exact ⟨b, acts ++ [.reset], hv, by rw [estLife_snoc, hl]; rfl⟩

/-- One pass of the expansion loop writes the estimator, the two retained records and one event. -/
theorem sampleFrame_frame (h : Header) (ts0 : I64) (i : Nat) (raw : PerChannel I32) (s : State) :
    sampleFrame h ts0 i raw s =
      { s with
        fr := { s.fr with
          est := (sampleFrame h ts0 i raw s).fr.est
          lastFrame := (sampleFrame h ts0 i raw s).fr.lastFrame
          lastEstCell := (sampleFrame h ts0 i raw s).fr.lastEstCell }
        out := s.out ++ [.receivedDataFrame
          (applyEstimate (newFrame s.haveCfg h i (rowTimestamp ts0 i) raw) s).1] } := by
  unfold sampleFrame retainAndEmit
  dsimp only
  rw [applyEstimate_frame]
  rfl

/-- The expansion loop: the framing state and everything outside FR but OUT stay, and one event a row is appended. -/
theorem expandRows_ok {img : List Byte} {p : Nat} {h : Header} {ts0 : I64} {rows : List Nat} {s t : State}
    (hx : expandRows img p h ts0 rows s = .ok t) :
    ∃ fs : List DataFrame, fs.length = rows.length ∧
      t = { s with
        fr := { s.fr with est := t.fr.est, lastFrame := t.fr.lastFrame, lastEstCell := t.fr.lastEstCell }
        out := s.out ++ fs.map .receivedDataFrame } := by
  induction rows generalizing s with
  | nil =>
    cases hx
    exact ⟨[], rfl, by simp⟩
  | cons i rest ih =>
    unfold expandRows at hx
    cases hr : readRow img p h.frameLength i with
    | error r => rw [hr] at hx; cases hx
    | ok raw =>
      rw [hr] at hx
      obtain ⟨fs, hl, ht⟩ := ih (s := sampleFrame h ts0 i raw s) hx
      refine ⟨(applyEstimate (newFrame s.haveCfg h i (rowTimestamp ts0 i) raw) s).1 :: fs, by simp [hl], ?_⟩
      rw [ht, sampleFrame_frame]
      simp

/-- DATA raises before it writes anything, or emits exactly fifty sample frames (R211, R316). -/
theorem dataFrame_ok {img : List Byte} {p : Nat} {h : Header} {s t : State} (hx : dataFrame img p h s = .ok t) :
    dataFrameLen ≤ h.frameLength ∧ ∃ fs : List DataFrame, fs.length = 50 ∧
      t = { s with
        fr := { s.fr with est := t.fr.est, lastFrame := t.fr.lastFrame, lastEstCell := t.fr.lastEstCell }
        out := s.out ++ fs.map .receivedDataFrame } := by
  unfold dataFrame at hx
  by_cases hl : dataFrameLen ≤ h.frameLength
  · simp only [require, hl, decide_true, if_true] at hx
    cases hr : readI64 img p h.frameLength (p + 16) with
    | error r => rw [hr] at hx; cases hx
    | ok ts0 =>
      rw [hr] at hx
      obtain ⟨fs, hf, ht⟩ := expandRows_ok (rows := List.range framesPerPacket) hx
      exact ⟨hl, fs, by simpa [framesPerPacket] using hf, ht⟩
  · simp only [require, hl, decide_false] at hx
    cases hx

/-- A frame body that decodes leaves the synchronisation, the residual, the bundle and everything outside FR but OUT
as they were. -/
theorem frameBody_ok {ctx : ParseCtx} {h : Header} {s t : State} (hx : frameBody ctx h s = .ok t) :
    t.fr.sync = s.fr.sync ∧ t.fr.residual = s.fr.residual ∧ t.fr.params = s.fr.params ∧ t.parse = s.parse ∧
      t.status = s.status ∧ t.program = s.program ∧ t.result = s.result ∧ t.impl = s.impl := by
  unfold frameBody at hx
  cases hf : h.frameType with
  | configuration =>
    rw [hf] at hx
    obtain ⟨f, _, rfl⟩ := configFrame_ok.mp hx
    simp [commitConfig]
  | data =>
    rw [hf] at hx
    obtain ⟨_, fs, _, ht⟩ := dataFrame_ok hx
    rw [ht]
    simp

/-- One frame ends the PARSE with status Ok, or moves the cursor forward inside the same image (R169). -/
theorem parseFrame_progress (ctx : ParseCtx) (s : State) (hc : ctx.cur < ctx.img.length) :
    ((parseFrame ctx s).parse = none ∧ (parseFrame ctx s).status = some .ok) ∨
      ∃ c, (parseFrame ctx s).parse = some ⟨ctx.img, c⟩ ∧ ctx.cur < c ∧ c ≤ ctx.img.length := by
  have hexc : ∀ r t, ((parseException ctx r t).parse = none ∧ (parseException ctx r t).status = some .ok) ∨
      ∃ c, (parseException ctx r t).parse = some ⟨ctx.img, c⟩ ∧ ctx.cur < c ∧ c ≤ ctx.img.length := by
    intro r t
    unfold parseException resumeAfterException
    split
    · exact .inl ⟨rfl, rfl⟩
    · exact .inr ⟨ctx.cur + 1, rfl, by omega, by omega⟩
  unfold parseFrame
  cases hh : header s.impl.maxFrameBytes ctx.img ctx.cur (ctx.img.length - ctx.cur) with
  | error r => exact hexc r s
  | ok h =>
    have h16 := (header_ok hh).2.2.2.2.2.1
    dsimp only
    split
    · exact .inl ⟨rfl, rfl⟩
    · next hlen =>
      cases frameBody ctx h s with
      | error r => exact hexc r s
      | ok t => exact .inr ⟨ctx.cur + h.frameLength, rfl, by omega, by omega⟩

/-- One pass of the loop ends the PARSE with status Ok, or moves the cursor forward inside the same image (R169). -/
theorem parsePass_progress (ctx : ParseCtx) (s : State) :
    ((parsePass ctx s).parse = none ∧ (parsePass ctx s).status = some .ok) ∨
      ∃ c, (parsePass ctx s).parse = some ⟨ctx.img, c⟩ ∧ ctx.cur < c ∧ c ≤ ctx.img.length := by
  unfold parsePass
  split
  · exact .inl ⟨rfl, rfl⟩
  · next hc =>
    split
    · exact parseFrame_progress ctx s (by omega)
    · cases hs : scan ctx.img ctx.cur with
      | none => exact .inl ⟨rfl, rfl⟩
      | some p =>
        obtain ⟨h1, h2⟩ := scan_bounds hs
        rcases parseFrame_progress { ctx with cur := p }
          ((s.setSync .synchronized).setParse (some { ctx with cur := p })) (by simpa using by omega) with h | ⟨c, h3, h4, h5⟩
        · exact .inl h
        · exact .inr ⟨c, h3, lt_of_le_of_lt h1 h4, h5⟩

end Sys2Proof.Machine
end

