-- ==== Sys2Proof/Laws/PerInstr.lean ====
section
/-! SUPPORT. Statements made per instruction: one lemma per constructor of `Instr`.
`HasEncoding`: an operation has an encoding exactly when it is a host command or a wire frame (00_scope R3). -/

namespace Sys2Proof.Laws.HasEncoding

/-- An operation has an encoding exactly when it is no internal operation (R3). -/
def Statement (i : Instr) : Prop := (encode i).isSome = decide (i.kind ≠ .internal)

theorem reset : Statement .reset := rfl
theorem start : Statement .start := rfl
theorem loadparam (b : ParamBundle) : Statement (.loadparam b) := rfl
theorem parse (buf : List Byte) : Statement (.parse buf) := rfl
theorem estreset : Statement .estreset := rfl
theorem chkcalc : Statement .chkcalc := rfl
theorem setfmt (f : FormatSetting) : Statement (.setfmt f) := rfl
theorem data (img : List Byte) (p : Nat) (h : Header) : Statement (.data img p h) := rfl
theorem cfg (img : List Byte) (p : Nat) (h : Header) : Statement (.cfg img p h) := rfl
theorem scan (img : List Byte) (start : Nat) : Statement (.scan img start) := rfl
theorem hdr (img : List Byte) (p avail : Nat) : Statement (.hdr img p avail) := rfl
theorem name (img : List Byte) (p fl a : Nat) : Statement (.name img p fl a) := rfl
theorem makecell (scalar : PerChannel F32) (analogName : PerChannel (List Byte)) :
    Statement (.makecell scalar analogName) := rfl
theorem row (img : List Byte) (p i : Nat) : Statement (.row img p i) := rfl
theorem newframe (h : Header) (i : Nat) (ts : I64) (raw : PerChannel I32) : Statement (.newframe h i ts raw) := rfl
theorem apply (f : DataFrame) : Statement (.apply f) := rfl
theorem inputs (f : DataFrame) : Statement (.inputs f) := rfl
theorem overwrite (f : DataFrame) (est : PhaseEstimate) : Statement (.overwrite f est) := rfl
theorem copyforward (f : DataFrame) (cell : EstimatedCell) : Statement (.copyforward f cell) := rfl
theorem estNew (b : ParamBundle) : Statement (.estNew b) := rfl
theorem estStep (e : Estimator) (x : PerChannel F64) (ts : I64) : Statement (.estStep e x ts) := rfl
theorem fill (e : Estimator) (x : PerChannel F64) : Statement (.fill e x) := rfl
theorem slide (e : Estimator) (x old : PerChannel F64) : Statement (.slide e x old) := rfl
theorem recompute (e : Estimator) : Statement (.recompute e) := rfl
theorem track (e : Estimator) (refAngle : F64) (ts : I64) : Statement (.track e refAngle ts) := rfl
theorem estReset (e : Estimator) : Statement (.estReset e) := rfl

end Sys2Proof.Laws.HasEncoding
end

