-- ==== Sys2Proof/Laws/Trig.lean ====
section
/-! SUPPORT. The parameter functions of R14: the block's have P2 and P3, and functions with all of P1 to P4 exist. -/

namespace Sys2Proof

/-- What `within b r` can be: a number of the band. -/
theorem F64.within_band {b r : F64} (h₁ : F64.le (F64.neg b) F64.zero = true) (h₂ : F64.le F64.zero b = true) :
    F64.le (F64.neg b) (F64.within b r) = true ∧ F64.le (F64.within b r) b = true := by
  unfold F64.within
  split
  · rename_i h
    simpa using h
  · exact ⟨h₁, h₂⟩

/-- The block's functions have properties P2 and P3 (R14). -/
theorem trig_block_bounded : Trig.block.Bounded := by
  refine ⟨fun y x h => ?_, fun y x hy hx => ?_, fun x hx => ⟨?_, ?_⟩⟩
  · rcases h with rfl | rfl <;> simp [Trig.block, Trig.boundedAtan2, F64.isNaN]
  · have h : (F64.isNaN y || F64.isNaN x) = false := by
      cases y <;> cases x <;> simp_all [F64.isNaN]
    simp only [Trig.block, Trig.boundedAtan2, h]
    exact F64.within_band (by decide +kernel) (by decide +kernel)
  · simp only [Trig.block, Trig.boundedCos, hx]
    exact F64.within_band (by decide +kernel) (by decide +kernel)
  · simp only [Trig.block, Trig.boundedSin, hx]
    exact F64.within_band (by decide +kernel) (by decide +kernel)

/-! Values of magnitudes: strictly rising, each one unit in the last place above the one before. -/

theorem F64.magValue_subnormal {m : Nat} (h : m < 2 ^ 52) : F64.magValue m = (m : ℚ) * 2 ^ (-1074 : ℤ) := by
  simp only [F64.magValue, F64.mantissa, F64.exponent, if_pos h]

theorem F64.magValue_normal {k f : Nat} (hk : 1 ≤ k) (hf : f < 2 ^ 52) :
    F64.magValue (k * 2 ^ 52 + f) = ((f : ℚ) + 2 ^ 52) * 2 ^ ((k : ℤ) - 1075) := by
  have h : ¬k * 2 ^ 52 + f < 2 ^ 52 := by omega
  have hd : (k * 2 ^ 52 + f) / 2 ^ 52 = k := by omega
  have hm : (k * 2 ^ 52 + f) % 2 ^ 52 = f := by omega
  simp only [F64.magValue, F64.mantissa, F64.exponent, if_neg h, hd, hm]
  push_cast
  rfl

theorem F64.exponent_normal {k f : Nat} (hk : 1 ≤ k) (hf : f < 2 ^ 52) :
    F64.exponent (k * 2 ^ 52 + f) = (k : ℤ) - 1075 := by
  have h : ¬k * 2 ^ 52 + f < 2 ^ 52 := by omega
  have hd : (k * 2 ^ 52 + f) / 2 ^ 52 = k := by omega
  simp only [F64.exponent, if_neg h, hd]

/-- The next magnitude is one unit in the last place larger. -/
theorem F64.magValue_succ (m : Nat) : F64.magValue (m + 1) = F64.magValue m + (2 : ℚ) ^ F64.exponent m := by
  by_cases h : m < 2 ^ 52
  · have he : F64.exponent m = -1074 := if_pos h
    rw [F64.magValue_subnormal h, he]
    by_cases h' : m + 1 < 2 ^ 52
    · rw [F64.magValue_subnormal h']
      generalize (2 : ℚ) ^ (-1074 : ℤ) = u
      push_cast
      ring
    · obtain rfl : m = 2 ^ 52 - 1 := by omega
      rw [show 2 ^ 52 - 1 + 1 = 1 * 2 ^ 52 + 0 by decide, F64.magValue_normal (by decide) (by decide),
        show ((1 : ℕ) : ℤ) - 1075 = -1074 by decide]
      generalize (2 : ℚ) ^ (-1074 : ℤ) = u
      push_cast
      ring
  · obtain ⟨k, f, hk, hf, rfl⟩ : ∃ k f, 1 ≤ k ∧ f < 2 ^ 52 ∧ m = k * 2 ^ 52 + f :=
      ⟨m / 2 ^ 52, m % 2 ^ 52, by omega, by omega, by omega⟩
    rw [F64.magValue_normal hk hf, F64.exponent_normal hk hf]
    by_cases h' : f + 1 < 2 ^ 52
    · rw [Nat.add_assoc, F64.magValue_normal hk h']
      push_cast
      ring
    · obtain rfl : f = 2 ^ 52 - 1 := by omega
      have hs : k * 2 ^ 52 + (2 ^ 52 - 1) + 1 = (k + 1) * 2 ^ 52 + 0 := by omega
      have hz : (2 : ℚ) ^ (((k + 1 : ℕ) : ℤ) - 1075) = 2 * 2 ^ ((k : ℤ) - 1075) := by
        rw [← zpow_one_add₀ (by norm_num)]
        congr 1
        push_cast
        ring
      rw [hs, F64.magValue_normal (by omega) (by decide), hz]
      push_cast
      norm_num
      ring

theorem F64.magValue_strictMono : StrictMono F64.magValue :=
  strictMono_nat_of_lt_succ fun m => by
    rw [F64.magValue_succ]
    exact lt_add_of_pos_right _ (by positivity)

theorem F64.magValue_zero : F64.magValue 0 = 0 := by simp [F64.magValue, F64.mantissa]

theorem F64.magValue_nonneg (m : Nat) : 0 ≤ F64.magValue m := by
  rw [← F64.magValue_zero]
  exact F64.magValue_strictMono.monotone (Nat.zero_le m)

/-- The unit in the last place of a magnitude is one that its own value admits. -/
theorem F64.exponent_admitted (m : Nat) :
    -1074 ≤ F64.exponent m ∧ (F64.exponent m = -1074 ∨ (2 : ℚ) ^ (F64.exponent m + 52) ≤ F64.magValue m) := by
  by_cases h : m < 2 ^ 52
  · have he : F64.exponent m = -1074 := if_pos h
    exact ⟨he.ge, .inl he⟩
  · obtain ⟨k, f, hk, hf, rfl⟩ : ∃ k f, 1 ≤ k ∧ f < 2 ^ 52 ∧ m = k * 2 ^ 52 + f :=
      ⟨m / 2 ^ 52, m % 2 ^ 52, by omega, by omega, by omega⟩
    rw [F64.magValue_normal hk hf, F64.exponent_normal hk hf]
    refine ⟨by omega, .inr ?_⟩
    rw [zpow_add₀ (by norm_num), mul_comm]
    refine mul_le_mul_of_nonneg_right ?_ (by positivity)
    have : (0 : ℚ) ≤ f := by positivity
    norm_num at this ⊢

/-- Below four there is, for every real number, a greatest magnitude that does not exceed it: the number truncated. -/
theorem F64.exists_truncation {v : ℝ} (h₀ : 0 ≤ v) (h₄ : v < 4) :
    ∃ m, (F64.magValue m : ℝ) ≤ v ∧ v < (F64.magValue (m + 1) : ℝ) := by
  classical
  have h4 : (F64.magValue (1025 * 2 ^ 52 + 0) : ℝ) = 4 := by
    rw [F64.magValue_normal (by decide) (by decide)]
    norm_num
  refine ⟨Nat.findGreatest (fun m => (F64.magValue m : ℝ) ≤ v) (1025 * 2 ^ 52), ?_, ?_⟩
  · exact Nat.findGreatest_spec (P := fun m => (F64.magValue m : ℝ) ≤ v) (Nat.zero_le _)
      (by simpa [F64.magValue_zero] using h₀)
  · by_contra hn
    have hn := not_lt.mp hn
    have hlt : Nat.findGreatest (fun m => (F64.magValue m : ℝ) ≤ v) (1025 * 2 ^ 52) + 1 ≤ 1025 * 2 ^ 52 := by
      by_contra hc
      have hmono := F64.magValue_strictMono.monotone (show 1025 * 2 ^ 52 + 0 ≤
        Nat.findGreatest (fun m => (F64.magValue m : ℝ) ≤ v) (1025 * 2 ^ 52) + 1 by omega)
      have : (4 : ℝ) ≤ v := by
        rw [← h4]
        exact le_trans (by exact_mod_cast hmono) hn
      linarith
    have := Nat.le_findGreatest (P := fun m => (F64.magValue m : ℝ) ≤ v) hlt hn
    omega

/-- A real number below four in magnitude has a finite value within one unit in the last place, and no larger in
magnitude: the number truncated. -/
theorem F64.exists_within_one_ulp {v : ℝ} (h : |v| < 4) :
    ∃ (neg : Bool) (m : Fin 0x7FF0000000000001), F64.WithinUlps 1 (.num neg m) v ∧ (F64.magValue m : ℝ) ≤ |v| := by
  obtain ⟨m, hle, hlt⟩ := F64.exists_truncation (abs_nonneg v) h
  have h4 : (F64.magValue (1025 * 2 ^ 52 + 0) : ℝ) = 4 := by
    rw [F64.magValue_normal (by decide) (by decide)]
    norm_num
  have hm : m < 1025 * 2 ^ 52 + 0 := by
    have : (F64.magValue m : ℝ) < (F64.magValue (1025 * 2 ^ 52 + 0) : ℝ) := by linarith
    exact F64.magValue_strictMono.lt_iff_lt.mp (by exact_mod_cast this)
  have hfin : m < F64.infMag := by unfold F64.infMag; omega
  obtain ⟨he, hu⟩ := F64.exponent_admitted m
  have hstep : (F64.magValue (m + 1) : ℝ) = F64.magValue m + (2 : ℝ) ^ F64.exponent m := by
    rw [F64.magValue_succ]
    push_cast
    rfl
  refine ⟨decide (v < 0), ⟨m, Nat.lt_succ_of_lt hfin⟩, ⟨hfin, F64.exponent m, he, ?_, ?_⟩, hle⟩
  · refine hu.imp_right fun h' => le_trans ?_ hle
    have h'' := (Rat.cast_le (K := ℝ)).mpr h'
    rwa [Rat.cast_zpow, Rat.cast_ofNat] at h''
  · rw [hstep] at hlt
    by_cases hv : v < 0
    · rw [abs_of_neg hv] at hle hlt
      simp only [hv, decide_true, F64.signed, if_true]
      rw [abs_le]
      push_cast
      constructor <;> linarith
    · rw [abs_of_nonneg (not_lt.mp hv)] at hle hlt
      simp only [hv, decide_false, F64.signed, Bool.false_eq_true, if_false]
      rw [abs_le]
      push_cast
      constructor <;> linarith

/-- A number whose magnitude is at most that of `b ≥ 0` lies in `[−b, b]`. -/
theorem F64.le_of_mag_le {neg : Bool} {m b : Fin 0x7FF0000000000001} (h : m.val ≤ b.val) :
    F64.le (F64.neg (.num false b)) (.num neg m) = true ∧ F64.le (.num neg m) (.num false b) = true := by
  cases neg <;> simp [F64.le, F64.neg, F64.key, F64.signed] <;> omega

/-- A finite value denotes one real number. -/
theorem F64.denotes_iff {x : F64} (hx : F64.isFinite x = true) : ∃ v : ℝ, ∀ w, F64.Denotes x w ↔ w = v := by
  cases x with
  | nan => cases hx
  | num neg m => exact ⟨_, fun w => and_iff_right (of_decide_eq_true hx)⟩

theorem F64.not_denotes {x : F64} (hx : F64.isFinite x = false) (v : ℝ) : ¬F64.Denotes x v := by
  cases x with
  | nan => exact id
  | num neg m => exact fun h => of_decide_eq_false hx h.1

/-- A function bounded by one has, at every operand, a value with P3 and P4. -/
theorem exists_bounded_unary (f : ℝ → ℝ) (hf : ∀ v, |f v| ≤ 1) (x : F64) :
    ∃ r, (F64.le (F64.neg F64.one) r = true ∧ F64.le r F64.one = true) ∧
      ∀ v, F64.Denotes x v → F64.WithinUlps 1 r (f v) := by
  by_cases hx : F64.isFinite x = true
  · obtain ⟨v, hv⟩ := F64.denotes_iff hx
    obtain ⟨neg, m, hw, hm⟩ := F64.exists_within_one_ulp (lt_of_le_of_lt (hf v) (by norm_num : (1 : ℝ) < 4))
    have h1 : F64.one = .num false ⟨1023 * 2 ^ 52 + 0, by decide⟩ := by decide +kernel
    have hle : m.val ≤ 1023 * 2 ^ 52 + 0 := by
      have h1v : (F64.magValue (1023 * 2 ^ 52 + 0) : ℝ) = 1 := by
        rw [F64.magValue_normal (by decide) (by decide)]
        norm_num
      have h : (F64.magValue m : ℝ) ≤ (F64.magValue (1023 * 2 ^ 52 + 0) : ℝ) := by
        rw [h1v]
        exact hm.trans (hf v)
      exact F64.magValue_strictMono.le_iff_le.mp (by exact_mod_cast h)
    exact ⟨.num neg m, by rw [h1]; exact F64.le_of_mag_le hle, fun w hw' => (hv w).mp hw' ▸ hw⟩
  · exact ⟨F64.zero, by decide +kernel, fun v hv => absurd hv (F64.not_denotes (by simpa using hx) v)⟩

/-- At every pair of operands there is a value of the arctangent with P2 and P4. -/
theorem exists_bounded_angle (y x : F64) :
    ∃ r, (y = .nan ∨ x = .nan → r = .nan) ∧
      (y ≠ .nan → x ≠ .nan → F64.le (F64.neg F64.pi) r = true ∧ F64.le r F64.pi = true) ∧
      ∀ b a, F64.Denotes y b → F64.Denotes x a → a ≠ 0 ∨ b ≠ 0 →
        ∃ ρ θ : ℝ, 0 < ρ ∧ -Real.pi ≤ θ ∧ θ ≤ Real.pi ∧ a = ρ * Real.cos θ ∧ b = ρ * Real.sin θ ∧
          F64.WithinUlps 1 r θ := by
  by_cases hn : y = .nan ∨ x = .nan
  · refine ⟨.nan, fun _ => rfl, fun hy hx => absurd hn (by tauto), fun b a hb ha => ?_⟩
    rcases hn with rfl | rfl
    · exact hb.elim
    · exact ha.elim
  by_cases hf : F64.isFinite y = true ∧ F64.isFinite x = true
  · obtain ⟨b, hb⟩ := F64.denotes_iff hf.1
    obtain ⟨a, ha⟩ := F64.denotes_iff hf.2
    have hθ := Complex.abs_arg_le_pi ⟨a, b⟩
    have h4 : Real.pi < 4 := by linarith [Real.pi_lt_d2]
    obtain ⟨neg, m, hw, hm⟩ := F64.exists_within_one_ulp (lt_of_le_of_lt hθ h4)
    have hpi : F64.pi = .num false ⟨1024 * 2 ^ 52 + 0x921FB54442D18, by decide⟩ := by decide +kernel
    have hlt : m.val < 1024 * 2 ^ 52 + 0x921FB54442D19 := by
      have hv : Real.pi < (F64.magValue (1024 * 2 ^ 52 + 0x921FB54442D19) : ℝ) := by
        rw [F64.magValue_normal (by decide) (by decide)]
        refine lt_trans Real.pi_lt_d20 ?_
        norm_num
      have h : (F64.magValue m : ℝ) < (F64.magValue (1024 * 2 ^ 52 + 0x921FB54442D19) : ℝ) :=
        lt_of_le_of_lt (hm.trans hθ) hv
      exact F64.magValue_strictMono.lt_iff_lt.mp (by exact_mod_cast h)
    refine ⟨.num neg m, fun h => absurd h hn,
      fun _ _ => by rw [hpi]; exact F64.le_of_mag_le (Nat.le_of_lt_succ hlt), fun b' a' hb' ha' h0 => ?_⟩
    obtain rfl := (hb b').mp hb'
    obtain rfl := (ha a').mp ha'
    have hz : (⟨a', b'⟩ : ℂ) ≠ 0 := fun h => by
      have hre := congrArg Complex.re h
      have him := congrArg Complex.im h
      simp at hre him
      tauto
    have hρ : 0 < ‖(⟨a', b'⟩ : ℂ)‖ := norm_pos_iff.mpr hz
    have hc := Complex.cos_arg hz
    have hs := Complex.sin_arg (⟨a', b'⟩ : ℂ)
    refine ⟨_, _, hρ, (abs_le.mp hθ).1, (abs_le.mp hθ).2, ?_, ?_, hw⟩
    · rw [hc]
      field_simp
    · rw [hs]
      field_simp
  · refine ⟨F64.zero, fun h => absurd h hn, fun _ _ => by decide +kernel, fun b a hb ha => ?_⟩
    by_cases hy : F64.isFinite y = true
    · exact absurd ha (F64.not_denotes (by simpa using fun h => hf ⟨hy, h⟩) a)
    · exact absurd hb (F64.not_denotes (by simpa using hy) b)

/-- Functions with all four properties of R14 exist, with the error bound one unit in the last place: P4 rules no
machine out that a bound of at least one admits. -/
theorem exists_trig_bounded_accurate : ∃ T : Trig, T.Bounded ∧ T.Accurate 1 := by
  choose c hcb hca using exists_bounded_unary Real.cos Real.abs_cos_le_one
  choose n hnb hna using exists_bounded_unary Real.sin Real.abs_sin_le_one
  choose t htn htb hta using exists_bounded_angle
  exact ⟨⟨c, n, t⟩, ⟨htn, htb, fun x _ => ⟨hcb x, hnb x⟩⟩, fun x v h => ⟨hca x v h, hna x v h⟩, hta⟩

end Sys2Proof
end

