-- ==== Sys2Proof/Tests/Slice0.lean ====
section
/-! SUPPORT. Tests and witnesses.  Expected values come from the vectors of 95_test_vectors.md (named in each comment)
or are worked out by hand from the rule named.  A `witness_` theorem shows states and operands that meet the
hypotheses of the statement it is named after. -/

namespace Sys2Proof.Tests

-- one theorem after another: a thread for each of them is more than the memory limit of the check allows
set_option Elab.async false

open Sys2Proof.Machine

/-- The step answers a next state with property `p`. -/
def nextIs (o : Outcome) (p : State → Bool) : Bool :=
  match o with
  | .next s => p s
  | .fault _ => false
  | .refused _ => false

theorem next_of_nextIs {o : Outcome} {p : State → Bool} (h : nextIs o p = true) : ∃ t, o = .next t := by
  cases o with
  | next s => exact ⟨s, rfl⟩
  | fault r => cases h
  | refused r => cases h

/-- R123: the default bundle of the test bench. -/
def bundle : ParamBundle :=
  { ParamBundle.idle with
    calculatePhaseEstimates := true
    nominalFrequency := .hz60
    calculationFrameRate := 3000
    referenceChannel := .va
    targetCycles := 2
    frequencyAlpha := F64.one
    rocofAlpha := F64.one
    recalculationCycles := 10 }

/-- `1.5`, `0.5`, `0.25` as binary64 patterns (R13). -/
def f1_5 : F64 := F64.ofBits 0x3FF8000000000000
def f0_5 : F64 := F64.ofBits 0x3FE0000000000000
def f0_25 : F64 := F64.ofBits 0x3FD0000000000000

def one32 : F32 := 0x3F800000
def half32 : F32 := 0x3F000000

/-- The 75 bytes of V-CFG-1. -/
def cfg1 : List Byte :=
  [0x01, 0x01, 0x00, 0x00, 0x00, 0x45, 0x00, 0x00, 0x00, 0x00, 0x00, 0x00, 0x00, 0x2A, 0x00, 0x00]
  ++ [0x00, 0x06, 0x00, 0x00, 0x00, 0x00, 0x0B, 0xB8, 0x3F, 0x80, 0x00, 0x00, 0x3F, 0x80, 0x00, 0x00]
  ++ [0x3F, 0x80, 0x00, 0x00, 0x3F, 0x00, 0x00, 0x00, 0x3F, 0x00, 0x00, 0x00, 0x3F, 0x00, 0x00, 0x00]
  ++ [0x53, 0x54, 0x41, 0x54, 0x49, 0x4F, 0x4E, 0x31, 0x00, 0x49, 0x41, 0x00, 0x49, 0x42, 0x00, 0x49]
  ++ [0x43, 0x00, 0x56, 0x41, 0x00, 0x56, 0x42, 0x00, 0x56, 0x43, 0x00]

def station1 : List Byte := [0x53, 0x54, 0x41, 0x54, 0x49, 0x4F, 0x4E, 0x31]
def names1 : PerChannel (List Byte) :=
  ⟨[0x49, 0x41], [0x49, 0x42], [0x49, 0x43], [0x56, 0x41], [0x56, 0x42], [0x56, 0x43]⟩
def scalars1 : PerChannel F32 := ⟨one32, one32, one32, half32, half32, half32⟩

/-- The header of V-CFG-1 and the one of V-HDR-1. -/
def cfgHeader : Header := ⟨.configuration, 0x01, 75, 42, 0⟩
def dataHeader : Header := ⟨.data, 0x01, 1224, 42, 7⟩

/-- The sixteen bytes of V-HDR-1. -/
def hdr1 : List Byte :=
  [0x00, 0x01, 0x00, 0x00, 0x04, 0xC2, 0x00, 0x00, 0x00, 0x00, 0x00, 0x00, 0x00, 0x2A, 0x00, 0x07]

/-- V-DAT-8: one row, and a whole packet of such rows with epoch 5. -/
def row8 : List Byte :=
  [0x00, 0x00, 0x00, 0x01, 0xFF, 0xFF, 0xFF, 0xFF, 0x00, 0x00, 0x00, 0x02, 0xFF, 0xFF, 0xFF, 0xFE]
  ++ [0x00, 0x00, 0x00, 0x64, 0xFF, 0xFF, 0xFF, 0x9C]
def raw8 : PerChannel I32 := ⟨1, -1, 2, -2, 100, -100⟩
def packet : List Byte :=
  hdr1 ++ [0x00, 0x00, 0x00, 0x00, 0x00, 0x00, 0x00, 0x05] ++ (List.replicate 50 row8).flatten

/-- The configuration V-CFG-1 decodes to. -/
def config1 : ConfigurationFrame where
  header := cfgHeader
  analogCount := 6
  digitalCount := 0
  sampleRate := 3000
  scalar := scalars1
  stationName := station1
  analogName := names1
  cell := makeCell scalars1 names1

/-- An estimator with a window of `N` samples, all tables 1.0 and all state zero; `total` steps taken. -/
def est (N R total : Nat) : Estimator where
  const :=
    { fNom := F64.ofInt 60, spc := N, k := 1, N := N, R := R, M := 1, r := .va, alphaF := f0_5, alphaR := f0_25
      twRe := F64.one, twIm := F64.zero, magScale := F64.one, period := F64.div F64.one (F64.ofInt 3000)
      fLo := F64.ofInt 54, fHi := F64.ofInt 66, cosT := List.replicate N F64.one, sinT := List.replicate N F64.zero }
  vars :=
    { buf := PerChannel.ofFn (fun _ => List.replicate N F64.zero), accRe := PerChannel.ofFn (fun _ => F64.zero)
      accIm := PerChannel.ofFn (fun _ => F64.zero), wr := total % N, total := total, sinceRecalc := 0
      prevPhase := if total < N then none else some F64.zero
      prevTs := if total < N then none else some 1000000000
      smoothedFreq := F64.ofInt 60, freqSeeded := false, rocof := F64.zero }

/-- Samples 1.0 to 6.0, one per channel. -/
def ramp : PerChannel F64 := PerChannel.ofFn (fun c => F64.ofInt (c.index + 1))

/-- An estimate, a cell and a sample frame. -/
def estimate1 : PhaseEstimate := ⟨F64.ofInt 60, F64.one, ramp, PerChannel.ofFn (fun _ => f0_5)⟩
def cell1 : EstimatedCell := ⟨F64.ofInt 60, F64.one, PerChannel.ofFn (fun _ => ⟨F64.one, f0_5⟩)⟩
def frame1 : DataFrame := newFrame true dataHeader 0 5 raw8

/-- The machine after reset with a bundle, a configuration and a small running estimator. -/
def ready : State :=
  { State.reset with
    fr := { Framer.reset with cfg := some config1, params := some bundle, est := some (est 2 4 2) } }

/-- A PARSE in progress at offset `cur` of `img`. -/
def parsing (sync : Sync) (img : List Byte) (cur : Nat) : State :=
  { State.reset with fr := { Framer.reset with sync := sync }, parse := some ⟨img, cur⟩ }

/-- The exception entry, seen from the state before. -/
def raised (x : Exc) (info : Nat) (s t : State) : Bool :=
  decide (t = { s with
    fr := { s.fr with sync := .unsynchronized, residual := [] }
    out := s.out ++ [.parsingException x info] })

/-! Operands refused by WellFormed, one per check. -/

theorem test_wf_data_wrong_type : (Instr.data cfg1 0 cfgHeader).wellFormed = false := by decide +kernel
theorem test_wf_data_other_header : (Instr.data packet 0 { dataHeader with channelID := 43 }).wellFormed = false := by
  decide +kernel
theorem test_wf_data_frame_outside_image : (Instr.data hdr1 0 dataHeader).wellFormed = false := by decide +kernel
theorem test_wf_cfg_wrong_type : (Instr.cfg packet 0 dataHeader).wellFormed = false := by decide +kernel
theorem test_wf_header_version : Header.wf { cfgHeader with version := 0x02 } = false := by decide
theorem test_wf_header_short : Header.wf { cfgHeader with frameLength := 15 } = false := by decide
theorem test_wf_header_long : Header.wf { cfgHeader with frameLength := 4294967302 } = false := by decide
theorem test_wf_hdr_avail : (Instr.hdr hdr1 0 15).wellFormed = false := by decide
theorem test_wf_name_frame_outside : (Instr.name cfg1 0 76 48).wellFormed = false := by decide
theorem test_wf_name_before_frame : (Instr.name cfg1 1 20 0).wellFormed = false := by decide
theorem test_wf_row_index : (Instr.row packet 0 50).wellFormed = false := by decide +kernel
theorem test_wf_row_short : (Instr.row cfg1 0 0).wellFormed = false := by decide
theorem test_wf_newframe_index : (Instr.newframe dataHeader 50 0 raw8).wellFormed = false := by decide
theorem test_wf_newframe_type : (Instr.newframe cfgHeader 0 0 raw8).wellFormed = false := by decide
theorem test_wf_apply_header : (Instr.apply { frame1 with header := { dataHeader with version := 0x00 } }).wellFormed
    = false := by decide +kernel
theorem test_wf_inputs_no_cell : (Instr.inputs { frame1 with hasCell := false }).wellFormed = false := by decide
theorem test_wf_eststep_empty_window : (Instr.estStep (est 0 1 0) ramp 0).wellFormed = false := by decide +kernel
theorem test_wf_fill_window_full : (Instr.fill (est 2 4 2) ramp).wellFormed = false := by decide +kernel
theorem test_wf_slide_no_interval : (Instr.slide (est 2 0 2) ramp ramp).wellFormed = false := by decide +kernel
theorem test_wf_recompute_index :
    (Instr.recompute ⟨(est 2 4 2).const, { (est 2 4 2).vars with wr := 1 }⟩).wellFormed = false := by decide +kernel
theorem test_wf_track_window_open : (Instr.track (est 2 4 1) F64.zero 0).wellFormed = false := by decide +kernel
theorem test_wf_estreset_table :
    (Instr.estReset ⟨{ (est 2 4 2).const with cosT := [] }, (est 2 4 2).vars⟩).wellFormed = false := by decide +kernel

/-! Decoding: words written out from R113, R121 and R124. -/

theorem test_decode_reset : decodeTableWord 8 0x01 = some .reset := by decide
theorem test_decode_start : decodeTableWord 8 0x02 = some .start := by decide
/-- The operand lines of a bare table word are idle (log entry 2). -/
theorem test_decode_idle_lines : decodeTableWord 8 0x03 = some (.loadparam ParamBundle.idle) ∧
    decodeTableWord 8 0x07 = some (.setfmt (.phasorDataFormat .fixedInteger)) := by decide +kernel
theorem test_decode_loadparam :
    decode (.command ⟨0x03, bundle, [], .phasorDataFormat .fixedInteger⟩) = .ok (.loadparam bundle) := by decide +kernel
theorem test_decode_parse :
    decode (.command ⟨0x04, ParamBundle.idle, hdr1, .phasorDataFormat .fixedInteger⟩) = .ok (.parse hdr1) := by
  decide +kernel
theorem test_decode_estreset : decodeTableWord 8 0x05 = some .estreset := by decide
theorem test_decode_chkcalc : decodeTableWord 8 0x06 = some .chkcalc := by decide
theorem test_decode_setfmt :
    decode (.command ⟨0x07, ParamBundle.idle, [], .phasorCoordinateFormat .rectangular⟩)
      = .ok (.setfmt (.phasorCoordinateFormat .rectangular)) := by decide +kernel
theorem test_decode_data : decode (.frame packet 0) = .ok (.data packet 0 dataHeader) := by decide +kernel
theorem test_decode_cfg : decode (.frame cfg1 0) = .ok (.cfg cfg1 0 cfgHeader) := by decide +kernel
/-- R148: 0x00 and 0x08 to 0xFF are reserved. -/
theorem test_decode_reserved : decodeTableWord 8 0x00 = none ∧ decodeTableWord 8 0x08 = none ∧
    decodeTableWord 8 0xFF = none := by decide
/-- V-HDR-6, V-HDR-7, V-HDR-8 as table words. -/
theorem test_decode_bad_frames :
    decode (.frame ([0x01, 0x00] ++ List.replicate 14 0x00) 0) = .error (.unsupportedVersion 0x00) ∧
    decode (.frame ([0x02, 0x01] ++ List.replicate 14 0x00) 0) = .error (.unknownFrameType 0x02) ∧
    decode (.frame ([0x02, 0x02] ++ List.replicate 14 0x00) 0) = .error (.unsupportedVersion 0x02) ∧
    decode (.frame (hdr1.take 15) 0) = .error .shortHeader := by decide +kernel
theorem test_decode_table_frames :
    (decodeTableWord 16 0x0001).isSome = true ∧ (decodeTableWord 16 0x0101).isSome = true ∧
    decodeTableWord 16 0x0201 = none := by decide +kernel
theorem test_fetch_command : nextIs (step (State.reset.withFetchWord 8 0x06))
    (fun t => decide (t.status = some (.error .unsupportedOperation))) = true := by decide +kernel
/-- V-DAT-2's shape: sixteen bits of a frame and zeros above declare length 6, which HDR refuses (R182). -/
theorem test_fetch_frame : nextIs (step (State.reset.withFetchWord 16 0x0001))
    (fun t => decide (t.out = [.parsingException .invalidFrameLength 0])) = true := by decide +kernel
/-- V-CFG-1: the `.cfg` directive. -/
theorem test_encode_cfg : cfgFrameBytes 42 0 scalars1 station1 names1 = cfg1 := by decide +kernel
theorem test_encode_data : dataPacketBytes 42 7 5 (fun _ => raw8) = packet := by decide +kernel
theorem test_encode_header : encodeHeader dataHeader = hdr1 := by decide +kernel

/-! Byte reads and arithmetic. -/

/-- V-MEM-1 to V-MEM-9. -/
theorem test_reads :
    beU16 [0x04, 0xC2] 0 = 1218 ∧ beU32 [0x00, 0x00, 0x04, 0xC2] 0 = 1218 ∧
    beU32 [0xFF, 0xFF, 0xFF, 0xFF] 0 = 4294967295 ∧
    (BitVec.ofNat 32 (beAt [0xFF, 0xFF, 0xFF, 0x9C] 0 4)).toInt = -100 ∧
    (BitVec.ofNat 32 (beAt [0x80, 0x00, 0x00, 0x00] 0 4)).toInt = -2147483648 ∧
    (beU64 [0x17, 0x97, 0x9C, 0xFE, 0x36, 0x2A, 0x00, 0x00] 0).toInt = 1700000000000000000 := by decide +kernel
/-- V-MEM-11 to V-MEM-14. -/
theorem test_f32 :
    F64.ofF32 0x3F800000 = F64.one ∧ F64.ofF32 0x3F000000 = f0_5 ∧
    F64.ofF32 0xC0200000 = F64.ofBits 0xC004000000000000 ∧ F64.ofF32 0x7FC00000 = .nan := by decide +kernel
/-- V-CON-4: 1.0/3000.0, SQRT2/100.0, TWO_PI × 60.0. -/
theorem test_f64 :
    F64.div F64.one (F64.ofInt 3000) = F64.ofBits 0x3F35D867C3ECE2A5 ∧
    F64.div F64.sqrt2 (F64.ofInt 100) = F64.ofBits 0x3F8CF68D4FFF04DD ∧
    F64.mul F64.twoPi (F64.ofInt 60) = F64.ofBits 0x40778FDB9EFFEA46 ∧
    F64.sqrt2 = F64.ofBits 0x3FF6A09E667F3BCD := by decide +kernel
/-- V-NRM-1. -/
theorem test_normalize :
    normalize F64.zero = F64.zero ∧ normalize F64.pi = F64.pi ∧ normalize (F64.neg F64.pi) = F64.pi ∧
    normalize (F64.ofInt 4) = F64.sub (F64.ofInt 4) F64.twoPi ∧ Machine.normalize F64.nan = F64.nan ∧
    normalize F64.twoPi = F64.zero ∧ normalize (F64.neg F64.twoPi) = F64.zero := by decide +kernel

/-! Host commands. -/

/-- V-CMD-1. -/
theorem test_reset : nextIs (exec .reset ready) (fun t => decide (t.fr = State.reset.fr ∧ t.status = some .ok))
    = true := by decide +kernel
/-- V-CMD-2. -/
theorem test_start : nextIs (exec .start { ready with fr := { ready.fr with sync := .synchronized, residual := hdr1 } })
    (fun t => decide (t.fr = { ready.fr with sync := .unsynchronized, residual := [] })) = true := by decide +kernel
/-- V-CMD-3, V-CMD-6, V-CMD-9. -/
theorem test_loadparam_ok :
    nextIs (exec (.loadparam bundle) State.reset) (fun t => decide (t.fr.params = some bundle ∧ t.status = some .ok))
      = true ∧
    validBundle none { bundle with frequencyAlpha := F64.zero } = true ∧
    validBundle none { bundle with calculationFrameRate := 60 } = true := by decide +kernel
/-- V-CMD-4, V-CMD-5, V-CMD-7, V-CMD-8, V-CMD-10 to V-CMD-12. -/
theorem test_loadparam_refused :
    nextIs (exec (.loadparam { bundle with frequencyAlpha := f1_5 }) ready)
      (fun t => decide (t = { ready with status := some (.error .invalidParameter) })) = true ∧
    validBundle none { bundle with rocofAlpha := .nan } = false ∧
    validBundle none { bundle with calculationFrameRate := 0 } = false ∧
    validBundle none { bundle with calculationFrameRate := 7 } = false ∧
    validBundle none { bundle with targetCycles := 0 } = false ∧
    validBundle none { bundle with recalculationCycles := 0 } = false ∧
    validBundle none { bundle with enableIntervalAveraging := true } = false ∧
    validBundle none { bundle with enablePublishEMA := true } = false ∧
    validBundle (some 99) bundle = false ∧ validBundle (some 100) bundle = true := by decide +kernel
/-- P1: three bytes of garbage, then V-CFG-1. -/
theorem test_parse_resync : nextIs (exec (.parse ([0x07, 0x07, 0xFF] ++ cfg1)) State.reset)
    (fun t => decide (t.out = [.receivedConfigurationFrame config1] ∧ t.fr.sync = .synchronized ∧ t.fr.residual = [] ∧
      t.parse = none ∧ t.status = some .ok)) = true := by decide +kernel
/-- P4's variant: a split inside a header. -/
theorem test_parse_split_header : nextIs (exec (.parse (packet.take 10)) ready)
    (fun t => decide (t.out = [.parsingException .insufficientLength 0] ∧ t.fr.sync = .unsynchronized)) = true := by
  decide +kernel
theorem test_estreset : nextIs (exec .estreset ready)
    (fun t => decide ((t.fr.est.map (fun e => e.vars.total)) = some 0 ∧ t.status = some .ok)) = true := by decide +kernel
/-- V-CMD-14. -/
theorem test_estreset_none : nextIs (exec .estreset State.reset)
    (fun t => decide (t = { State.reset with status := some .ok })) = true := by decide +kernel
/-- V-CMD-15. -/
theorem test_chkcalc : nextIs (exec .chkcalc ready)
    (fun t => decide (t = { ready with status := some (.error .unsupportedOperation) })) = true := by decide +kernel
/-- V-CMD-16, V-CMD-17. -/
theorem test_setfmt :
    nextIs (exec (.setfmt (.phasorDataFormat .fixedInteger)) ready) (fun t => decide (t.status = some .ok)) = true ∧
    nextIs (exec (.setfmt (.phasorCoordinateFormat .rectangular)) ready)
      (fun t => decide (t.status = some (.error .unsupportedFormat))) = true := by decide +kernel
/-- V-CMD-18. -/
theorem test_reserved : nextIs (step (giveCommand (Command.ofCode 0xFF) ready))
    (fun t => decide (t.status = some (.error .unsupportedOperation))) = true := by decide +kernel

/-! Wire frames and their parts. -/

/-- V-DAT-3's timestamps on the packet of V-DAT-8: 5, 333338, 666672. -/
theorem test_data : nextIs (exec (.data packet 0 dataHeader) State.reset)
    (fun t => decide (t.out.length = 50 ∧
      (t.out.take 3).map (fun e => match e with
        | .receivedDataFrame f => f.timestamp.toNat
        | _ => 0) = [5, 333338, 666672])) = true := by decide +kernel
/-- V-DAT-1: a declared length of 1223. -/
theorem test_data_short : nextIs (exec (.data packet 0 { dataHeader with frameLength := 1223 }) State.reset)
    (fun t => raised .insufficientLength 0 State.reset t) = true := by decide +kernel
/-- V-CFG-1. -/
theorem test_cfg : nextIs (exec (.cfg cfg1 0 cfgHeader) State.reset)
    (fun t => decide (t.fr.cfg = some config1 ∧ t.out = [.receivedConfigurationFrame config1])) = true := by
  decide +kernel
/-- V-CFG-6: `frameLength` 66 cuts the fourth analog name off. -/
theorem test_cfg_cut : nextIs (exec (.cfg cfg1 0 { cfgHeader with frameLength := 66 }) ready)
    (fun t => raised .insufficientLength 0 ready t) = true := by decide +kernel
/-- V-SCAN-1 to V-SCAN-4. -/
theorem test_scan :
    scan [0xFF, 0x00, 0x00, 0x01, 0x01] 0 = some 2 ∧ scan [0x00, 0x01, 0x01] 0 = some 0 ∧
    scan [0x07, 0x07, 0xFF, 0x01, 0x01, 0x00] 0 = some 3 ∧ scan [0x07, 0x07, 0x00] 0 = none := by decide
/-- V-SCAN-5 to V-SCAN-8. -/
theorem test_scan_edges :
    scan [0x01] 0 = none ∧ scan [0x00, 0x01, 0x00, 0x01] 1 = some 2 ∧ scan [0x02, 0x01, 0x01, 0x01] 0 = some 1 ∧
    scan [] 0 = none := by decide
/-- V-HDR-1, V-HDR-2, V-HDR-4. -/
theorem test_hdr :
    header none hdr1 0 16 = .ok dataHeader ∧
    header none ([0x01, 0x01, 0x00, 0x00, 0x00, 0x0A] ++ List.replicate 10 0x00) 0 16
      = .ok ⟨.configuration, 0x01, 16, 0, 0⟩ ∧
    header (some 1224) ([0x01, 0x01, 0xFF, 0xFF, 0xFF, 0xFF] ++ List.replicate 10 0x00) 0 16
      = .error ⟨.invalidFrameLength, 0⟩ := by decide +kernel
/-- V-HDR-5 to V-HDR-10. -/
theorem test_hdr_raises :
    header none ([0x00, 0x01, 0x00, 0x00, 0x00, 0x09] ++ List.replicate 10 0x00) 0 16
      = .error ⟨.invalidFrameLength, 0⟩ ∧
    header none ([0x01, 0x00] ++ List.replicate 14 0x00) 0 16 = .error ⟨.unsupportedVersion, 0⟩ ∧
    header none ([0x02, 0x01] ++ List.replicate 14 0x00) 0 16 = .error ⟨.unknownFrameType, 0⟩ ∧
    header none ([0x02, 0x02] ++ List.replicate 14 0x00) 0 16 = .error ⟨.unsupportedVersion, 0⟩ ∧
    header none (hdr1.take 15) 0 15 = .error ⟨.insufficientLength, 0⟩ ∧
    header none [0x02, 0x02] 0 2 = .error ⟨.insufficientLength, 0⟩ := by decide +kernel
theorem test_name : nextIs (exec (.name cfg1 0 75 48) State.reset)
    (fun t => decide (t.result = .name station1 57)) = true := by decide +kernel
/-- V-CFG-9: twenty-one bytes without a terminator; the twenty-second is skipped unread. -/
theorem test_name_long : nextIs (exec (.name (List.replicate 22 0x41) 0 22 0) State.reset)
    (fun t => decide (t.result = .name (List.replicate 21 0x41) 22)) = true := by decide +kernel
theorem test_makecell : nextIs (exec (.makecell scalars1 names1) State.reset)
    (fun t => match t.result with
      | .cell c => decide (c.phasorDef.toList = [.current, .current, .current, .voltage, .voltage, .voltage] ∧
          c.analogDef.va = ⟨[0x56, 0x41], half32, .singlePointOnWave⟩)
      | _ => false) = true := by decide +kernel
/-- V-DAT-8, V-DAT-9. -/
theorem test_row : nextIs (exec (.row packet 0 49) State.reset) (fun t => decide (t.result = .raw raw8)) = true := by
  decide +kernel
theorem test_row_offsets : rowOff 0 = 24 ∧ rowOff 1 = 48 ∧ rowOff 2 = 72 ∧ rowOff 49 = 1200 := by decide
/-- V-SRC-1, V-DAT-6, V-DAT-7. -/
theorem test_timestamps :
    timeOffset 1 = 333333 ∧ timeOffset 2 = 666667 ∧
    (rowTimestamp 9223372036838442475 49).toInt = -9223372036854775808 ∧
    (rowTimestamp 9223372036838442474 49).toInt = 9223372036854775807 := by decide +kernel
/-- V-DAT-8, V-DAT-11. -/
theorem test_newframe : nextIs (exec (.newframe dataHeader 0 5 raw8) State.reset)
    (fun t => match t.result with
      | .frame f => decide (f.phasor.vc = ⟨F64.ofInt (-100), .nan⟩ ∧ f.initial = true ∧ f.hasCell = false ∧
          binaryLength f = 48)
      | _ => false) = true := by decide +kernel
theorem test_apply_skips : nextIs (exec (.apply { frame1 with timestamp := 0 }) ready)
    (fun t => decide (t = { ready with result := .frame { frame1 with timestamp := 0 } })) = true := by decide +kernel
theorem test_apply_steps : nextIs (exec (.apply frame1) ready)
    (fun t => decide ((t.fr.est.map (fun e => e.vars.total)) = some 3)) = true := by decide +kernel
/-- V-DAT-10. -/
theorem test_inputs : nextIs (exec (.inputs { frame1 with analogRaw := ⟨0, 0, 0, 30000, 0, 0⟩ }) ready)
    (fun t => match t.result with
      | .inputs x => decide (x.va = F64.ofInt 15000)
      | _ => false) = true := by decide +kernel
theorem test_overwrite : nextIs (exec (.overwrite frame1 estimate1) ready)
    (fun t => decide (t.fr.lastEstCell.map (fun c => c.phasor.vb) = some ⟨f0_5, F64.ofInt 5⟩)) = true := by
  decide +kernel
theorem test_copyforward : nextIs (exec (.copyforward frame1 cell1) ready)
    (fun t => decide (t.result = .frame { frame1 with
      frequency := F64.ofInt 60
      dFdt := F64.one
      phasor := cell1.phasor } ∧ t.fr = ready.fr)) = true := by decide +kernel

/-! The estimator. -/

/-- V-CON-1, V-CON-3. -/
theorem test_estnew : nextIs (exec (.estNew { bundle with calculationFrameRate := 60 }) State.reset)
    (fun t => match t.fr.est with
      | some e => decide (e.const.spc = 50 ∧ e.const.N = 100 ∧ e.const.R = 500 ∧ e.const.M = 50 ∧ e.const.r = .va)
      | none => false) = true := by decide +kernel
/-- The stub functions of V-EST-0, on a window of two samples (V-EST-0's formulas with `N = 2`): the first step
publishes nothing, the second fills the window with the sum. -/
theorem test_eststep :
    let T : Trig := ⟨fun _ => F64.one, fun _ => F64.zero, fun _ _ => F64.zero⟩
    let r1 := estStep T (est 2 4 0) ramp 1000000000
    let r2 := estStep T r1.1 ramp 1000333333
    r1.2 = none ∧ r2.2.isSome = true ∧ r2.1.vars.accRe.vc = F64.ofInt 12 ∧ r2.1.vars.wr = 0 ∧
      (r2.2.map (fun p => p.frequency)) = some (F64.ofInt 60) := by decide +kernel
theorem test_fill : nextIs (exec (.fill (est 2 4 1) ramp) State.reset)
    (fun t => decide (t.fr.est.map (fun e => (e.vars.accRe.ib, e.vars.buf.ib, e.vars.wr, e.vars.total))
      = some (F64.ofInt 2, [F64.zero, F64.ofInt 2], 0, 2))) = true := by decide +kernel
theorem test_slide : nextIs (exec (.slide (est 2 4 2) ramp (PerChannel.ofFn (fun _ => F64.one))) State.reset)
    (fun t => decide (t.fr.est.map (fun e => (e.vars.accRe.vc, e.vars.total)) = some (F64.ofInt 5, 2))) = true := by
  decide +kernel
theorem test_recompute : nextIs (exec (.recompute (fill (fill (est 2 4 0) ramp) ramp)) State.reset)
    (fun t => decide (t.fr.est.map (fun e => (e.vars.accRe.ic, e.vars.accIm.ic)) = some (F64.ofInt 6, F64.zero)))
    = true := by decide +kernel
/-- V-TRK-1, lines 1 and 2: 0.0 at 1.000000000 s, then 0.126 at 1.000333333 s. -/
theorem test_track :
    let e1 := track ⟨(est 2 4 2).const, { (est 2 4 2).vars with prevPhase := none, prevTs := none }⟩ F64.zero 1000000000
    let e2 := track e1 (F64.ofBits 0x3FC020C49BA5E354) 1000333333
    e1.vars.smoothedFreq = F64.ofInt 60 ∧ e2.vars.smoothedFreq = F64.ofBits 0x404E148F7AC5E970 ∧
    e2.vars.rocof = F64.zero ∧
    -- line 3: 0.252 at 1.000666667 s
    (track e2 (F64.ofBits 0x3FD020C49BA5E354) 1000666667).vars.smoothedFreq = F64.ofBits 0x404E148C85C7599C ∧
    (track e2 (F64.ofBits 0x3FD020C49BA5E354) 1000666667).vars.rocof = F64.ofBits 0xBFB153814D5F556C := by
  decide +kernel
theorem test_est_reset : nextIs (exec (.estReset (est 2 4 2)) State.reset)
    (fun t => decide (t.fr.est.map (fun e => (e.vars.total, e.vars.prevPhase)) = some (0, none))) = true := by
  decide +kernel

/-! Witnesses: for every statement with hypotheses, states and operands that meet all of them together. -/

/-- The smallest legal bundle: every bounded field at a bound. -/
def smallest : ParamBundle :=
  { bundle with calculationFrameRate := 1, targetCycles := 1, recalculationCycles := 1, rocofAlpha := F64.zero }

theorem witness_LegalBundle : LegalBundle none smallest :=
  ⟨by decide, by decide, by decide, (fun _ h => nomatch h), by decide, by decide, by decide +kernel,
    by decide +kernel, by decide⟩
theorem witness_LegalBundle_window : LegalBundle (some 50) smallest :=
  ⟨by decide, by decide, by decide, fun w h => by cases h; decide, by decide, by decide, by decide +kernel,
    by decide +kernel, by decide⟩
theorem witness_not_LegalBundle : ¬LegalBundle none { smallest with targetCycles := 0 } :=
  fun h => absurd h.2.2.1 (by decide)
/-- LoadparamAcceptsExactlyLegalBundles and EstNewDerivesConstants, both clauses. -/
theorem witness_LoadparamAcceptsExactlyLegalBundles :
    LegalBundle State.reset.impl.maxWindow smallest ∧
    ¬LegalBundle State.reset.impl.maxWindow { smallest with targetCycles := 0 } :=
  ⟨witness_LegalBundle, witness_not_LegalBundle⟩
theorem witness_EstNewDerivesConstants :
    LegalBundle State.reset.impl.maxWindow smallest ∧
    ¬LegalBundle State.reset.impl.maxWindow { smallest with targetCycles := 0 } :=
  ⟨witness_LegalBundle, witness_not_LegalBundle⟩
theorem witness_EstresetClearsEstimatorOnly : ready.fr.est = some (est 2 4 2) ∧ State.reset.fr.est = none :=
  ⟨rfl, rfl⟩
/-- SetfmtAcceptsOnlyHardwiredFormats: all eight settings. -/
theorem witness_SetfmtAcceptsOnlyHardwiredFormats :
    settingIsFixed (.phasorDataFormat .fixedInteger) = true ∧
    settingIsFixed (.phasorCoordinateFormat .polar) = true ∧
    settingIsFixed (.frequencyDataFormat .floatingPoint) = true ∧
    settingIsFixed (.analogDataFormat .floatingPoint) = true ∧
    settingIsFixed (.phasorDataFormat .floatingPoint) = false ∧
    settingIsFixed (.phasorCoordinateFormat .rectangular) = false ∧
    settingIsFixed (.frequencyDataFormat .fixedInteger) = false ∧
    settingIsFixed (.analogDataFormat .fixedInteger) = false := by decide
theorem witness_CommandErrorChangesNoState :
    Instr.chkcalc.kind = .hostCommand ∧
    exec .chkcalc ready = .next { ready with status := some (.error .unsupportedOperation) } := ⟨rfl, rfl⟩

/-- One command waiting. -/
def waiting (c : Command) : State := { ready with program := [c] }

theorem witness_StepRunsDecodedCommand :
    (waiting (Command.ofCode 0x07)).parse = none ∧
    (waiting (Command.ofCode 0x07)).program = [Command.ofCode 0x07] ∧
    decodeCommand (Command.ofCode 0x07) = .ok (.setfmt (.phasorDataFormat .fixedInteger)) ∧
    ready.parse = none ∧ ready.program = [] := ⟨rfl, rfl, rfl, rfl, rfl⟩
/-- ReservedCodeIsUnsupported: 0x00, and 0x08 and 0xFF at the ends of the reserved range. -/
theorem witness_ReservedCodeIsUnsupported :
    (waiting (Command.ofCode 0x00)).parse = none ∧
    (waiting (Command.ofCode 0x00)).program = [Command.ofCode 0x00] ∧
    (Command.ofCode 0x00).code = 0x00#8 ∧ 0x08 ≤ (Command.ofCode 0x08).code.toNat ∧
    0x08 ≤ (Command.ofCode 0xFF).code.toNat := ⟨rfl, rfl, rfl, by decide, by decide⟩
/-- StepRunsDecodedFrame: a configuration frame that decodes. -/
theorem witness_StepRunsDecodedFrame :
    (parsing .synchronized cfg1 0).parse = some ⟨cfg1, 0⟩ ∧ (parsing .synchronized cfg1 0).fr.sync = .synchronized ∧
    decodeFrame cfg1 0 = .ok (.cfg cfg1 0 cfgHeader) ∧ (Instr.cfg cfg1 0 cfgHeader).wellFormed = true ∧
    ∀ m, (parsing .synchronized cfg1 0).impl.maxFrameBytes = some m → (readHeader cfg1 0).frameLength ≤ m :=
  ⟨rfl, rfl, by decide +kernel, by decide +kernel, fun _ h => nomatch h⟩
/-- The second and third clause: a data frame of declared length 16, which DATA refuses (V-DAT-2). -/
def shortData : List Byte := [0x00, 0x01, 0x00, 0x00, 0x00, 0x0A] ++ List.replicate 10 0x00
theorem witness_StepRunsDecodedFrame_raises :
    decodeFrame shortData 0 = .ok (.data shortData 0 ⟨.data, 0x01, 16, 0, 0⟩) ∧
    (Instr.data shortData 0 ⟨.data, 0x01, 16, 0, 0⟩).wellFormed = true ∧
    nextIs (exec (.data shortData 0 ⟨.data, 0x01, 16, 0, 0⟩) (parsing .synchronized shortData 0))
      (fun t => decide (t.fr.sync = .unsynchronized)) = true := by decide +kernel
/-- UnsynchronizedStepScans: no pattern, and a pattern at the cursor itself. -/
theorem witness_UnsynchronizedStepScans :
    (parsing .unsynchronized [0x07] 0).parse = some ⟨[0x07], 0⟩ ∧
    (parsing .unsynchronized [0x07] 0).fr.sync = .unsynchronized ∧
    (∀ q, ¬((([0x07] : List Byte)[q]? = some 0x00#8 ∨ ([0x07] : List Byte)[q]? = some 0x01#8) ∧
      ([0x07] : List Byte)[q + 1]? = some 0x01#8)) ∧
    (parsing .unsynchronized cfg1 0).parse = some ⟨cfg1, 0⟩ ∧
    (cfg1[0]? = some 0x00#8 ∨ cfg1[0]? = some 0x01#8) ∧ cfg1[0 + 1]? = some 0x01#8 :=
  ⟨rfl, rfl, fun q => by rcases q with _ | q <;> simp, rfl, Or.inr rfl, rfl⟩
/-- What fifty steps make of the estimator of the smallest bundle: its window is full and it has published. -/
def lived : Estimator × Option EstimatedCell :=
  estLife Trig.block (estBuild Trig.block { smallest with calculationFrameRate := 3000 }, none)
    (List.replicate 50 (.step ramp 5))
theorem lived_history : ∃ b acts, validBundle none b = true ∧
    estLife Trig.block (estBuild Trig.block b, none) acts = (lived.1, lived.2) :=
  ⟨_, _, by decide +kernel, (Prod.mk.eta (p := lived)).symm⟩
/-- The machine with an estimator and a retained cell, and ESTRESET waiting. -/
def runningWith (p : Estimator × Option EstimatedCell) : State :=
  { State.reset with
    fr := { Framer.reset with cfg := some config1, params := some bundle, est := some p.1, lastEstCell := p.2 }
    program := [Command.ofCode 0x05] }
theorem runningWith_history {p : Estimator × Option EstimatedCell} (h : ∃ b acts, validBundle none b = true ∧
    estLife Trig.block (estBuild Trig.block b, none) acts = (p.1, p.2)) : (runningWith p).EstHistory :=
  fun e he => by cases he; exact h
theorem runningWith_wf {p : Estimator × Option EstimatedCell} (h : p.1.wf = true) :
    ∀ e, (runningWith p).fr.est = some e → e.wf = true :=
  fun e he => by cases he; exact h
theorem lived_wf : lived.1.wf = true := by decide +kernel
def running : State := runningWith lived
/-- StepKeepsInvariants: a state with an estimator and a retained cell, which meets every invariant, and its step. -/
theorem witness_StepKeepsInvariants :
    running.Inv ∧ running.fr.lastEstCell.isSome = true ∧ ∃ t, step running = .next t :=
  ⟨{ residual_empty_when_unsynchronized := fun _ => rfl
     residual_is_partial_frame := fun h => absurd rfl h
     config_counts := fun c h => by cases h; decide
     bundle_valid := fun b h => by cases h; decide +kernel
     estimator_wf := runningWith_wf lived_wf
     estimator_has_bundle := fun _ => Option.some_ne_none _
     estimator_history := runningWith_history lived_history
     cell_has_estimator := fun _ => Option.some_ne_none _
     cursor_in_image := fun _ h => nomatch h }, by decide +kernel, ⟨_, rfl⟩⟩
theorem witness_StepAppendsEventsAndKeepsConstants :
    step (waiting (Command.ofCode 0x06)) = .next { ready with status := some (.error .unsupportedOperation) } ∧
    (waiting (Command.ofCode 0x06)).fr.est = some (est 2 4 2) := ⟨rfl, rfl⟩
theorem witness_DecodeInvertsEncode :
    (Instr.cfg cfg1 0 cfgHeader).wellFormed = true ∧
    encode (.cfg cfg1 0 cfgHeader) = some (.frame cfg1 0) := by decide +kernel
/-- HeaderEncodingRoundTrips: declared lengths at both ends of the range. -/
theorem witness_HeaderEncodingRoundTrips :
    Header.wf ⟨.data, 0x01, 16, 0, 0⟩ = true ∧ Header.wf ⟨.configuration, 0x01, 4294967301, 1, 2⟩ = true := by decide
theorem witness_ConfigFrameFieldsRoundTrip :
    station1.length ≤ 20 ∧ 0x00#8 ∉ station1 ∧ (∀ c, (names1.get c).length ≤ 20 ∧ 0x00#8 ∉ names1.get c) ∧
    cfgHeader.frameLength = (cfgFrameBytes 42 0 scalars1 station1 names1).length :=
  ⟨by decide, by decide, fun c => by cases c <;> decide, by decide +kernel⟩
/-- HdrChecksInOrder: one image per clause, lengths 15 and 16 where the clauses meet. -/
theorem witness_HdrChecksInOrder :
    (15 ≤ hdr1.length - 0 ∧ 15 < 16) ∧
    (16 ≤ hdr1.length - 0 ∧ hdr1[0 + 1]? = some 0x01#8 ∧ hdr1[0]? = some FrameType.data.byte ∧
      16 ≤ beAt hdr1 (0 + 2) 4 + 6) ∧
    ([0x02, 0x02] ++ List.replicate 14 0x00 : List Byte)[0 + 1]? ≠ some 0x01#8 ∧
    (([0x02, 0x01] ++ List.replicate 14 0x00 : List Byte)[0 + 1]? = some 0x01#8 ∧
      ([0x02, 0x01] ++ List.replicate 14 0x00 : List Byte)[0]? = some 0x02#8) ∧
    beAt ([0x00, 0x01, 0x00, 0x00, 0x00, 0x09] ++ List.replicate 10 0x00) 2 4 + 6 = 15 ∧
    beAt ([0x00, 0x01, 0x00, 0x00, 0x00, 0x0A] ++ List.replicate 10 0x00) 2 4 + 6 = 16 := by decide +kernel

/-- The framer Synchronized and otherwise as after reset. -/
def synced : State := { State.reset with fr := { Framer.reset with sync := .synchronized } }

theorem witness_IncompleteFrameIsDeferred :
    synced.fr.sync = .synchronized ∧
    header synced.impl.maxFrameBytes (synced.fr.residual ++ hdr1) 0 (synced.fr.residual ++ hdr1).length
      = .ok dataHeader ∧
    (synced.fr.residual ++ hdr1).length < dataHeader.frameLength := by decide +kernel
/-- The second clause: a whole configuration frame, and behind it the sixteen bytes of a data frame's header. -/
theorem witness_IncompleteFrameIsDeferred_behind_frame :
    (parsing .synchronized (cfg1 ++ hdr1) 75).parse = some ⟨cfg1 ++ hdr1, 75⟩ ∧
    (parsing .synchronized (cfg1 ++ hdr1) 75).fr.sync = .synchronized ∧
    header (parsing .synchronized (cfg1 ++ hdr1) 75).impl.maxFrameBytes (cfg1 ++ hdr1) 75 ((cfg1 ++ hdr1).length - 75)
      = .ok dataHeader ∧
    (cfg1 ++ hdr1).length - 75 < dataHeader.frameLength := by decide +kernel
/-- R144, R164: one PARSE of a whole frame and the head of the next keeps that head. -/
theorem test_parse_frame_and_head : nextIs (exec (.parse (cfg1 ++ hdr1)) synced)
    (fun t => decide (t.out = [.receivedConfigurationFrame config1] ∧ t.fr.residual = hdr1 ∧
      t.fr.sync = .synchronized)) = true := by decide +kernel
theorem witness_SplitFrameParsesAsWhole :
    synced.fr.sync = .synchronized ∧ synced.fr.residual = [] ∧
    header synced.impl.maxFrameBytes hdr1 0 hdr1.length = .ok dataHeader ∧ hdr1.length < dataHeader.frameLength ∧
    ∃ t, exec (.parse hdr1) synced = .next t :=
  ⟨rfl, rfl, by decide +kernel, by decide, ⟨_, rfl⟩⟩
theorem witness_ResynchronisesPastGarbage :
    State.reset.fr.sync = .unsynchronized ∧ State.reset.fr.residual = [] ∧
    (∀ q, q < [0x07#8, 0x07#8, 0xFF#8].length →
      ¬((([0x07, 0x07, 0xFF] ++ cfg1)[q]? = some 0x00#8 ∨ ([0x07, 0x07, 0xFF] ++ cfg1)[q]? = some 0x01#8) ∧
        ([0x07, 0x07, 0xFF] ++ cfg1)[q + 1]? = some 0x01#8)) ∧
    header State.reset.impl.maxFrameBytes ([0x07, 0x07, 0xFF] ++ cfg1) 3 cfg1.length = .ok cfgHeader ∧
    cfgHeader.frameType = .configuration ∧ cfgHeader.frameLength = cfg1.length ∧
    decodeConfig ([0x07, 0x07, 0xFF] ++ cfg1) 3 cfgHeader = .ok config1 := by decide +kernel
/-- HeaderErrorEntersException: both policies. -/
theorem witness_HeaderErrorEntersException :
    (parsing .synchronized [0x00] 0).parse = some ⟨[0x00], 0⟩ ∧
    (parsing .synchronized [0x00] 0).fr.sync = .synchronized ∧ 0 < [0x00#8].length ∧
    header (parsing .synchronized [0x00] 0).impl.maxFrameBytes [0x00] 0 ([0x00#8].length - 0)
      = .error ⟨.insufficientLength, 0⟩ ∧
    (parsing .synchronized [0x00] 0).impl.resyncPolicy = .discardBuffer ∧
    ({ parsing .synchronized [0x00] 0 with
      impl := { Config.defaultParams with resyncPolicy := .rescanFromNextByte } } : State).impl.resyncPolicy
      = .rescanFromNextByte := by decide +kernel
/-- NameStopsAtTerminatorOrTwentyOne: a terminator at 0 and at 20, twenty-one bytes without one, and a frame that ends
at once and at 20. -/
theorem witness_NameStopsAtTerminatorOrTwentyOne :
    let zero20 : List Byte := List.replicate 20 0x41 ++ [0x00]
    let plain : List Byte := List.replicate 21 0x41
    0 + 21 ≤ zero20.length ∧ zero20[0 + 20]? = some 0x00#8 ∧ (∀ u, u < 20 → zero20[0 + u]? ≠ some 0x00#8) ∧
    ([0x00] : List Byte)[0 + 0]? = some 0x00#8 ∧
    0 + 21 ≤ 0 + plain.length ∧ (∀ u, u < 21 → plain[0 + u]? ≠ some 0x00#8) ∧
    0 + 20 ≤ 0 + 20 ∧ (∀ u, u < 20 → plain[0 + u]? ≠ some 0x00#8) ∧ 0 + 0 ≤ 0 + 0 := by decide +kernel
/-- The first 24 bytes of V-CFG-1 with the low bytes of its three fixed fields given. -/
def fixedBlock (analog digital rate : Byte) : List Byte :=
  cfg1.take 16 ++ [0x00, analog, 0x00, digital, 0x00, 0x00, 0x0B, rate]
/-- CfgRejectsWrongFixedBlock: each clause, at the lengths 17 to 24 where the clauses meet. -/
theorem witness_CfgRejectsWrongFixedBlock :
    (0 + 17 ≤ (fixedBlock 6 0 0xB8).length ∧ 17 < 18) ∧
    (0 + 18 ≤ (fixedBlock 7 0 0xB8).length ∧ beAt (fixedBlock 7 0 0xB8) (0 + 16) 2 ≠ 6) ∧
    (0 + 19 ≤ (fixedBlock 6 0 0xB8).length ∧ beAt (fixedBlock 6 0 0xB8) (0 + 16) 2 = 6 ∧ 19 < 20) ∧
    (0 + 20 ≤ (fixedBlock 6 1 0xB8).length ∧ beAt (fixedBlock 6 1 0xB8) (0 + 16) 2 = 6 ∧
      beAt (fixedBlock 6 1 0xB8) (0 + 18) 2 ≠ 0) ∧
    (0 + 23 ≤ (fixedBlock 6 0 0xB8).length ∧ beAt (fixedBlock 6 0 0xB8) (0 + 18) 2 = 0 ∧ 23 < 24) ∧
    (0 + 24 ≤ (fixedBlock 6 0 0xB9).length ∧ beAt (fixedBlock 6 0 0xB9) (0 + 16) 2 = 6 ∧
      beAt (fixedBlock 6 0 0xB9) (0 + 18) 2 = 0 ∧ beAt (fixedBlock 6 0 0xB9) (0 + 20) 4 ≠ 3000) := by decide +kernel
/-- R201, V-CFG-4: a declared length of 23 cuts the third field, a wrong first field is seen at 18. -/
theorem test_cfg_fixed_block :
    nextIs (exec (.cfg (fixedBlock 6 0 0xB9) 0 { cfgHeader with frameLength := 23 }) ready)
      (fun t => raised .insufficientLength 0 ready t) = true ∧
    nextIs (exec (.cfg (fixedBlock 7 0 0xB9) 0 { cfgHeader with frameLength := 18 }) ready)
      (fun t => raised .protocolMismatch 0 ready t) = true := by decide +kernel

theorem configFits_cfg1 : ∀ k, k < 7 →
    nameStart cfg1 0 k + min ((nameAt cfg1 (nameStart cfg1 0 k)).length + 1) 21 ≤ 0 + 75 := by decide +kernel
/-- CfgDecodesExactlyWhenNamesFit: V-CFG-1 at its own length, and cut at 66 (V-CFG-6) and at 24. -/
theorem witness_CfgDecodesExactlyWhenNamesFit :
    (24 ≤ cfgHeader.frameLength ∧ 0 + cfgHeader.frameLength ≤ cfg1.length ∧ beAt cfg1 (0 + 16) 2 = 6 ∧
      beAt cfg1 (0 + 18) 2 = 0 ∧ beAt cfg1 (0 + 20) 4 = 3000 ∧ configFits cfg1 0 cfgHeader.frameLength) ∧
    ¬configFits cfg1 0 66 ∧ ¬configFits cfg1 0 24 :=
  ⟨⟨by decide, by decide, by decide +kernel, by decide +kernel, by decide +kernel, by decide, configFits_cfg1⟩,
    fun h => absurd (h.2 4 (by decide)) (by decide +kernel), fun h => absurd h.1 (by decide)⟩
theorem witness_DataEmitsFiftyTimestampedFrames :
    1224 ≤ dataHeader.frameLength ∧ 0 + dataHeader.frameLength ≤ packet.length ∧
    ready.fr.est = some (est 2 4 2) := ⟨by decide, by decide +kernel, rfl⟩
theorem witness_ShortDataFrameRaises : ({ dataHeader with frameLength := 1223 } : Header).frameLength < 1224 := by
  decide
theorem witness_FrameIsAllOrNothing :
    (Instr.cfg cfg1 0 cfgHeader).kind = .wireFrame ∧ ∃ t, exec (.cfg cfg1 0 cfgHeader) State.reset = .next t ∧
      t.out = [.receivedConfigurationFrame config1] := ⟨rfl, _, rfl, by decide +kernel⟩
/-- RowTimestampsAreEvenlySpaced: the largest epoch admitted, and a negative one. -/
theorem witness_RowTimestampsAreEvenlySpaced :
    (9223372036838442474#64 : I64).toInt + 16333333 < 2 ^ 63 ∧ (-1 : I64).toInt + 16333333 < 2 ^ 63 := by
  decide +kernel
theorem witness_RowReadsSixSignedWords :
    49 < 50 ∧ 0 + 1224 ≤ packet.length ∧ packet[0 + 24 + 4 * Channel.vc.index]? = some 0xFF#8 ∧
    packet[0 + 24 + 4 * Channel.vc.index + 1]? = some 0xFF#8 ∧
    packet[0 + 24 + 4 * Channel.vc.index + 2]? = some 0xFF#8 ∧
    packet[0 + 24 + 4 * Channel.vc.index + 3]? = some 0x9C#8 := by decide +kernel
theorem witness_InputsApplyScalars :
    ready.impl.estInputScaled = true ∧ ready.fr.cfg = some config1 ∧
    ({ ready with impl := { ready.impl with estInputScaled := false } } : State).impl.estInputScaled = false :=
  ⟨rfl, rfl, rfl⟩
/-- ApplySkipsLeaveEstimatorAlone: each of the four conditions. -/
theorem witness_ApplySkipsLeaveEstimatorAlone :
    State.reset.fr.params = none ∧ { bundle with calculatePhaseEstimates := false }.calculatePhaseEstimates = false ∧
    ({ frame1 with hasCell := false } : DataFrame).hasCell = false ∧
    ({ frame1 with timestamp := 0 } : DataFrame).timestamp.toInt ≤ 0 := ⟨rfl, rfl, rfl, by decide⟩
/-- A state whose estimator declines the next sample, with a retained cell and `P3` set, and one without a cell. -/
def declining : State :=
  { ready with
    fr := { ready.fr with
      params := some { bundle with repeatLastCalculatedValueWhenDownSampling := true }
      est := some (est 2 4 0)
      lastEstCell := some cell1 } }
/-- ApplyStepsEstimatorOnce: the hypotheses with an estimator that publishes on the step, and the two clauses of one
that declines. -/
theorem witness_ApplyStepsEstimatorOnce :
    (ready.fr.params = some bundle ∧ bundle.calculatePhaseEstimates = true ∧ frame1.hasCell = true ∧
      0 < frame1.timestamp.toInt ∧
      (estStep Trig.block (ready.fr.est.getD (estBuild Trig.block bundle)) (inputs ready frame1)
        frame1.timestamp).2.isSome = true) ∧
    (declining.fr.params = some { bundle with repeatLastCalculatedValueWhenDownSampling := true } ∧
      declining.fr.lastEstCell = some cell1 ∧
      (estStep Trig.block (declining.fr.est.getD (estBuild Trig.block
        { bundle with repeatLastCalculatedValueWhenDownSampling := true })) (inputs declining frame1)
        frame1.timestamp).2 = none) ∧
    ({ declining with fr := { declining.fr with lastEstCell := none } } : State).fr.lastEstCell = none :=
  ⟨⟨rfl, rfl, rfl, by decide, by decide +kernel⟩, ⟨rfl, rfl, by decide +kernel⟩, rfl⟩
/-- ChannelIdAndCountSteerNothing: frames of both kinds that decode, with two headers each. -/
theorem witness_ChannelIdAndCountSteerNothing :
    (∃ t, exec (.data packet 0 dataHeader) State.reset = .next t) ∧
    (∃ t, exec (.data packet 0 { dataHeader with channelID := 1, packetCount := 2 }) State.reset = .next t) ∧
    (∃ t, exec (.cfg cfg1 0 cfgHeader) State.reset = .next t) ∧
    ∃ t, exec (.cfg cfg1 0 { cfgHeader with channelID := 1, packetCount := 2 }) State.reset = .next t :=
  ⟨next_of_nextIs (p := fun _ => true) (by decide +kernel), next_of_nextIs (p := fun _ => true) (by decide +kernel),
    next_of_nextIs (p := fun _ => true) (by decide +kernel), next_of_nextIs (p := fun _ => true) (by decide +kernel)⟩
theorem witness_FillAccumulatesDirectly :
    (est 2 4 1).const.cosT[(est 2 4 1).vars.total]? = some F64.one ∧
    (est 2 4 1).const.sinT[(est 2 4 1).vars.total]? = some F64.zero := ⟨rfl, rfl⟩
theorem witness_RecomputeSumsOldestFirst : (est 2 4 2).wf = true := by decide +kernel
/-- TrackSeedsThenSmooths: no previous phase, and one, not seeded and seeded. -/
theorem witness_TrackSeedsThenSmooths :
    (est 2 4 2).wf = true ∧ (est 2 4 0).wf = true ∧ (est 2 4 0).vars.prevPhase = none ∧
    (est 2 4 2).vars.prevPhase = some F64.zero ∧ (est 2 4 2).vars.prevTs = some 1000000000 ∧
    (est 2 4 2).vars.freqSeeded = false ∧
    Estimator.wf ⟨(est 2 4 2).const, { (est 2 4 2).vars with freqSeeded := true }⟩ = true := by decide +kernel
/-- EstStepRecomputesOnSchedule: before, on and after the step that fills the window, with the counter below and at
the interval. -/
theorem witness_EstStepRecomputesOnSchedule :
    ((est 2 4 0).wf = true ∧ (est 2 4 0).vars.total + 1 < 2) ∧ ((est 2 4 1).wf = true ∧ (est 2 4 1).vars.total + 1 = 2) ∧
    ((est 2 1 2).wf = true ∧ 2 ≤ (est 2 1 2).vars.total ∧ 1 ≤ (est 2 1 2).vars.sinceRecalc + 1) ∧
    ((est 2 4 2).wf = true ∧ 2 ≤ (est 2 4 2).vars.total ∧ (est 2 4 2).vars.sinceRecalc + 1 < 4) := by decide +kernel
theorem witness_EstStepPublishesEveryMth :
    (est 2 4 1).const.N ≤ (est 2 4 1).vars.total + 1 ∧ (estStep Trig.block (est 2 4 1) ramp 5).2.isSome = true := by
  decide +kernel
theorem witness_WindowFillGatesEstimates : LegalBundle none smallest ∧ 0 < [(ramp, (5 : I64))].length :=
  ⟨witness_LegalBundle, by decide⟩
/-- RecalcCounterFollowsTotal: as many steps as the smallest window has samples. -/
theorem witness_RecalcCounterFollowsTotal :
    LegalBundle none smallest ∧ (estRun Trig.block (estBuild Trig.block smallest)
      (List.replicate 50 (ramp, (5 : I64)))).1.const.N ≤ (List.replicate 50 (ramp, (5 : I64))).length :=
  ⟨witness_LegalBundle, by decide +kernel⟩
theorem witness_FillCompletionKeepsAccumulators :
    LegalBundle none smallest ∧ (List.replicate 50 ramp).length
      = ((List.replicate 50 ramp).foldl fill (estBuild Trig.block smallest)).const.N :=
  ⟨witness_LegalBundle, by decide +kernel⟩
/-- LanesDoNotInteract: two samples that agree on IA only. -/
theorem witness_LanesDoNotInteract : ramp.get .ia = (PerChannel.ofFn (fun _ => F64.one)).get .ia ∧
    ramp ≠ PerChannel.ofFn (fun _ => F64.one) := by decide +kernel
/-- ClampKeepsTheBand: a NaN, a value below, both bounds, a value above. -/
theorem witness_ClampKeepsTheBand :
    F64.le (F64.ofInt 54) (F64.ofInt 66) = true ∧ F64.ofInt 53 ≠ .nan ∧
    F64.lt (F64.ofInt 53) (F64.ofInt 54) = true ∧ F64.lt (F64.ofInt 66) (F64.ofInt 67) = true ∧
    F64.le (F64.ofInt 54) (F64.ofInt 54) = true ∧ F64.le (F64.ofInt 66) (F64.ofInt 66) = true ∧
    F64.ofInt 67 ≠ .nan := by decide +kernel
theorem witness_NanFrequencyPersists :
    let e : Estimator := ⟨(est 2 4 2).const, { (est 2 4 2).vars with freqSeeded := true, smoothedFreq := .nan }⟩
    e.const.N ≤ e.vars.total ∧ e.vars.freqSeeded = true ∧ e.vars.smoothedFreq = .nan ∧
    e.vars.prevPhase.isSome = true ∧ [(ramp, (5 : I64))] ≠ [] := by decide +kernel
theorem witness_SmallIntegersConvertExactly :
    -(2 ^ 53 : Int) ≤ -(2 ^ 53) ∧ (-(2 ^ 53) : Int) ≤ 2 ^ 53 ∧ -(2 ^ 53 : Int) ≤ 2 ^ 53 ∧ (2 ^ 53 : Int) ≤ 2 ^ 53 := by
  decide

end Sys2Proof.Tests
end

section
/-! PROOF. The step of the machine when no PARSE is in progress (00_scope R17, 60_exceptions R325), and exact
conversion of small integers to binary64 (00_scope R13). -/

namespace Sys2Proof.Machine

/-! One step between commands, by what stands at the head of the program. -/

/-- What the fetch answers when a command waits. -/
theorem takeCommand_of_cons {s : State} {c : Command} {rest : List Command} (h : s.program = c :: rest) :
    takeCommand s = some (c, s.setProgram rest) := by
  simp only [takeCommand, h]

/-- What the fetch answers when no command waits. -/
theorem takeCommand_of_nil {s : State} (h : s.program = []) : takeCommand s = none := by
  simp only [takeCommand, h]

/-- With no parse image the step is the fetch, the decoder and the operation decoded. -/
theorem step_of_command {s : State} {c : Command} {rest : List Command} {i : Instr} (hparse : s.parse = none)
    (hprog : s.program = c :: rest) (hdec : decodeCommand c = .ok i) : step s = exec i (s.setProgram rest) := by
  simp only [step, hparse, takeCommand_of_cons hprog, hdec]

/-- Between commands the state is held. -/
theorem step_of_idle {s : State} (hparse : s.parse = none) (hprog : s.program = []) : step s = .next s := by
  simp only [step, hparse, takeCommand_of_nil hprog, execIdle]

/-- Settles O9: the command waiting is fetched, decoded and run; without one the step is the idle step. -/
theorem stepRunsDecodedCommand : Obligations.StepRunsDecodedCommand :=
  ⟨fun _ _ _ _ hparse hprog hdec => step_of_command hparse hprog hdec, fun _ => step_of_idle⟩

end Sys2Proof.Machine

namespace Sys2Proof

/-! Rounding is exact where the significand fits in 53 bits: nothing is shifted out, so only the place of the last bit
has to be computed. -/

/-- Exponent of the last bit that `roundMag` keeps of `m × 2^e`. -/
def F64.lastPlace (m : Nat) (e : Int) : Int := max ((Nat.log2 m : Int) + e - 52) (-1074)

/-- A magnitude built from an exponent field and a significand that still carries its leading bit; at exponent field 0
the leading bit may be missing (a subnormal number). -/
theorem F64.magValue_field {k sig : Nat} (hsig : sig < 2 ^ 53) (hlead : k = 0 ∨ 2 ^ 52 ≤ sig) :
    F64.magValue (k * 2 ^ 52 + sig) = (sig : ℚ) * 2 ^ ((k : ℤ) - 1074) := by
  by_cases h : 2 ^ 52 ≤ sig
  · obtain ⟨f, rfl⟩ := Nat.exists_eq_add_of_le h
    have hcarry : k * 2 ^ 52 + (2 ^ 52 + f) = (k + 1) * 2 ^ 52 + f := by ring
    have hexp : (((k + 1 : ℕ) : ℤ) - 1075) = (k : ℤ) - 1074 := by omega
    rw [hcarry, F64.magValue_normal (by omega) (by omega), hexp]
    push_cast
    ring
  · obtain rfl : k = 0 := by omega
    rw [Nat.zero_mul, Nat.zero_add, F64.magValue_subnormal (by omega)]
    norm_num

section
variable {m : Nat} {e : Int}

theorem F64.log2_le_of_lt (h : m < 2 ^ 53) : Nat.log2 m ≤ 52 := by
  by_cases hm : m = 0
  · simp [hm]
  · exact Nat.lt_succ_iff.mp ((Nat.log2_lt hm).mpr h)

/-- The last place kept is not above the last place held, so no bit is lost. -/
theorem F64.lastPlace_le (h : m < 2 ^ 53) (he : -1074 ≤ e) : F64.lastPlace m e ≤ e := by
  have := F64.log2_le_of_lt h
  unfold F64.lastPlace
  omega

/-- The significand moved to the last place kept fits in 53 bits. -/
theorem F64.shifted_lt (h : m < 2 ^ 53) : m * 2 ^ (e - F64.lastPlace m e).toNat < 2 ^ 53 := by
  have hlog := F64.log2_le_of_lt h
  have hsh : (e - F64.lastPlace m e).toNat ≤ 52 - Nat.log2 m := by
    unfold F64.lastPlace
    omega
  calc m * 2 ^ (e - F64.lastPlace m e).toNat
      ≤ m * 2 ^ (52 - Nat.log2 m) := by gcongr; norm_num
    _ < 2 ^ (Nat.log2 m + 1) * 2 ^ (52 - Nat.log2 m) := by gcongr; exact Nat.lt_log2_self
    _ = 2 ^ 53 := by rw [← pow_add]; congr 1; omega

/-- It carries its leading bit, unless the last place is that of the subnormal numbers. -/
theorem F64.le_shifted (hm : m ≠ 0) (h : m < 2 ^ 53) :
    F64.lastPlace m e = -1074 ∨ 2 ^ 52 ≤ m * 2 ^ (e - F64.lastPlace m e).toNat := by
  by_cases hsub : (Nat.log2 m : Int) + e - 52 ≤ -1074
  · exact .inl (max_eq_right hsub)
  · have hlog := F64.log2_le_of_lt h
    have hsh : (e - F64.lastPlace m e).toNat = 52 - Nat.log2 m := by
      unfold F64.lastPlace
      omega
    refine .inr ?_
    rw [hsh]
    calc 2 ^ 52 = 2 ^ Nat.log2 m * 2 ^ (52 - Nat.log2 m) := by rw [← pow_add]; congr 1; omega
      _ ≤ m * 2 ^ (52 - Nat.log2 m) := by gcongr; exact Nat.log2_self_le hm

/-- No bit is lost: rounding only moves the significand to its last place. -/
theorem F64.roundMag_eq_shift (hm : m ≠ 0) (h : m < 2 ^ 53) (he : -1074 ≤ e) (sticky : Bool) :
    F64.roundMag m e sticky =
      min F64.infMag
        ((F64.lastPlace m e + 1074).toNat * 2 ^ 52 + m * 2 ^ (e - F64.lastPlace m e).toNat) := by
  have hq : max ((Nat.log2 m : Int) + e - 52) (-1074) ≤ e := F64.lastPlace_le h he
  simp only [F64.roundMag, if_neg hm, if_pos hq, F64.lastPlace]

/-- A significand of at most 53 bits with an exponent in the range of binary64 is rounded to itself, and is finite. -/
theorem F64.roundMag_exact (hm : m ≠ 0) (h : m < 2 ^ 53) (he : -1074 ≤ e) (hfin : (Nat.log2 m : Int) + e ≤ 1023)
    (sticky : Bool) :
    F64.roundMag m e sticky < F64.infMag ∧ F64.magValue (F64.roundMag m e sticky) = (m : ℚ) * 2 ^ e := by
  have hle := F64.lastPlace_le h he
  have hlow : -1074 ≤ F64.lastPlace m e := le_max_right _ _
  have hhigh : F64.lastPlace m e ≤ 971 := max_le (by omega) (by norm_num)
  have hlt := F64.shifted_lt (e := e) h
  have hlead := F64.le_shifted (e := e) hm h
  have heq := F64.roundMag_eq_shift hm h he sticky
  have hval : ((m * 2 ^ (e - F64.lastPlace m e).toNat : ℕ) : ℚ) * 2 ^ F64.lastPlace m e = (m : ℚ) * 2 ^ e := by
    have hpow : (2 : ℚ) ^ (e - F64.lastPlace m e).toNat = 2 ^ (e - F64.lastPlace m e) := by
      rw [← zpow_natCast, Int.toNat_of_nonneg (by omega)]
    rw [Nat.cast_mul, Nat.cast_pow, Nat.cast_ofNat, hpow, mul_assoc, ← zpow_add₀ two_ne_zero]
    congr 2
    omega
  rw [← hval]
  generalize F64.lastPlace m e = q at *
  generalize m * 2 ^ (e - q).toNat = sig at *
  have hbelow : (q + 1074).toNat * 2 ^ 52 + sig < F64.infMag := by
    unfold F64.infMag
    omega
  rw [heq, min_eq_right hbelow.le]
  refine ⟨hbelow, ?_⟩
  rw [F64.magValue_field hlt (hlead.imp_left (by omega))]
  congr 2
  omega

end

/-- 2^53 has 54 bits, of which the last is dropped and is zero: the tie rule is not reached. -/
theorem F64.roundMag_two_pow_53 :
    F64.roundMag (2 ^ 53) 0 false < F64.infMag ∧ F64.magValue (F64.roundMag (2 ^ 53) 0 false) = 2 ^ 53 := by
  have hround : F64.roundMag (2 ^ 53) 0 false = 1076 * 2 ^ 52 + 0 := by decide +kernel
  rw [hround, F64.magValue_normal (by decide) (by decide)]
  norm_num [F64.infMag]

/-- Natural numbers up to 2^53 are rounded to themselves. -/
theorem F64.roundMag_natural {n : Nat} (h : n ≤ 2 ^ 53) :
    F64.roundMag n 0 false < F64.infMag ∧ F64.magValue (F64.roundMag n 0 false) = n := by
  rcases h.eq_or_lt with rfl | hlt
  · obtain ⟨hfin, hval⟩ := F64.roundMag_two_pow_53
    exact ⟨hfin, by rw [hval]; norm_num⟩
  · by_cases hn : n = 0
    · subst hn
      exact ⟨by decide, by simpa [F64.roundMag] using F64.magValue_zero⟩
    · have hlog := F64.log2_le_of_lt hlt
      simpa using F64.roundMag_exact (e := 0) hn hlt (by norm_num) (by omega) false

/-- The conversion of an integer is its sign and its rounded magnitude, at zero too. -/
theorem F64.ofInt_eq_ofMag (i : Int) : F64.ofInt i = F64.ofMag (decide (i < 0)) (F64.roundMag i.natAbs 0 false) := by
  by_cases hi : i = 0
  · subst hi
    rfl
  · simp only [F64.ofInt, F64.roundInt, if_neg hi]

/-- A finite magnitude is kept as it is. -/
theorem F64.ofMag_of_lt {m : Nat} (neg : Bool) (h : m < F64.infMag) :
    F64.ofMag neg m = .num neg ⟨m, Nat.lt_succ_of_lt h⟩ := by
  have hmin : min m 0x7FF0000000000000 = m := min_eq_left h.le
  simp only [F64.ofMag, hmin]

/-- The value of a finite number is its sign put on the value of its magnitude. -/
theorem F64.signed_mantissa_mul (neg : Bool) (m : Nat) :
    (F64.signed neg (F64.mantissa m) : ℚ) * 2 ^ F64.exponent m =
      if neg then -F64.magValue m else F64.magValue m := by
  cases neg <;> simp [F64.signed, F64.magValue]

/-- An integer is the sign it has put on its magnitude. -/
theorem F64.signed_natAbs (i : Int) : F64.signed (decide (i < 0)) i.natAbs = i := by
  by_cases hi : i < 0
  · simp only [hi, decide_true, F64.signed, if_true]
    omega
  · simp only [hi, decide_false, F64.signed, Bool.false_eq_true, if_false]
    omega

/-- Settles O60: the magnitude of such an integer is rounded to itself, and the sign is put back on it. -/
theorem smallIntegersConvertExactly : Obligations.SmallIntegersConvertExactly := by
  intro i hlow hhigh
  obtain ⟨hfin, hval⟩ := F64.roundMag_natural (n := i.natAbs) (by omega)
  refine ⟨decide (i < 0), ⟨F64.roundMag i.natAbs 0 false, Nat.lt_succ_of_lt hfin⟩, ?_, hfin, ?_⟩
  · rw [F64.ofInt_eq_ofMag, F64.ofMag_of_lt _ hfin]
  · rw [F64.signed_mantissa_mul, hval]
    conv_rhs => rw [← F64.signed_natAbs i]
    cases decide (i < 0) <;> simp [F64.signed]

end Sys2Proof
end

section
/-! PROOF. The invariants of 10_state R54 hold after power-on and are kept by every step; a step appends events and
keeps the latched constants (R33, R47, R51). -/

namespace Sys2Proof.Machine

-- one theorem after another, as in Tests/Slice0: a thread for each exceeds the memory limit of the check
set_option Elab.async false

/-! What a step can do. -/

/-- What a command taken off the port does to the state, by its code (R141 to R148, R313). -/
inductive CommandEffect (c : Command) (s : State) : State → Prop
  /-- RESET -/
  | reset (hcode : c.code = 0x01#8) : CommandEffect c s ({ s with fr := Framer.reset }.setStatus .ok)
  /-- START -/
  | start : CommandEffect c s (((s.setSync .unsynchronized).setResidual []).setStatus .ok)
  /-- LOADPARAM of a legal bundle -/
  | loadparam (b : ParamBundle) (hb : validBundle s.impl.maxWindow b = true) :
      CommandEffect c s ((s.setParams (some b)).setStatus .ok)
  /-- PARSE -/
  | parse (buf : List Byte) :
      CommandEffect c s (parseLoop ((s.fr.residual ++ buf).length + 1) (beginParse buf s))
  /-- ESTRESET while an estimator is held -/
  | estreset (e : Estimator) (he : s.fr.est = some e) :
      CommandEffect c s ((s.setEst (some (estReset e))).setStatus .ok)
  /-- every other command, and every error, answers a status and nothing else -/
  | status (v : CmdStatus) : CommandEffect c s (s.setStatus v)

/-- An operation decoded from the command port has one of these effects. -/
theorem exec_commandEffect {c : Command} {i : Instr} {s t : State} (hdec : decodeCommand c = .ok i)
    (h : exec i s = .next t) : CommandEffect c s t := by
  unfold decodeCommand at hdec
  split at hdec <;> cases hdec
  case h_1 hcode =>
    cases h
    exact .reset (BitVec.eq_of_toNat_eq hcode)
  case h_2 =>
    cases h
    exact .start
  case h_3 =>
    simp only [exec, execLoadparam] at h
    split at h <;> cases h
    · next hb => exact .loadparam c.bundle hb
    · exact .status (.error .invalidParameter)
  case h_4 =>
    cases h
    exact .parse c.bytes
  case h_5 =>
    simp only [exec, execEstreset] at h
    split at h <;> cases h
    · next e he => exact .estreset e he
    · exact .status .ok
  case h_6 =>
    cases h
    exact .status (.error .unsupportedOperation)
  case h_7 =>
    simp only [exec, execSetfmt] at h
    split at h <;> cases h
    · exact .status .ok
    · exact .status (.error .unsupportedFormat)

/-- A step is one pass of the dispatch loop, the idle step, or a command taken off the port (R121, R161, R325). -/
theorem step_cases {s t : State} (h : step s = .next t) :
    (∃ ctx, s.parse = some ctx ∧ t = parsePass ctx s) ∨ t = s ∨
      (s.parse = none ∧ ∃ c rest, s.program = c :: rest ∧ CommandEffect c (s.setProgram rest) t) := by
  cases hparse : s.parse with
  | some ctx =>
    simp only [step, hparse] at h
    cases h
    exact .inl ⟨ctx, rfl, rfl⟩
  | none =>
    cases hprog : s.program with
    | nil =>
      rw [step_of_idle hparse hprog] at h
      cases h
      exact .inr (.inl rfl)
    | cons c rest =>
      refine .inr (.inr ⟨rfl, c, rest, rfl, ?_⟩)
      cases hdec : decodeCommand c with
      | ok i => exact exec_commandEffect hdec (step_of_command hparse hprog hdec ▸ h)
      | error x =>
        simp only [step, hparse, takeCommand_of_cons hprog, hdec] at h
        cases h
        exact .status (.error .unsupportedOperation)

/-- One frame: an exception, a deferral, or a body that decodes and the cursor moved behind it (R163 to R167). -/
theorem parseFrame_cases (ctx : ParseCtx) (s : State) :
    (∃ r, parseFrame ctx s = parseException ctx r s) ∨
    ∃ h, header s.impl.maxFrameBytes ctx.img ctx.cur (ctx.img.length - ctx.cur) = .ok h ∧
      ((ctx.img.length - ctx.cur < h.frameLength ∧
          parseFrame ctx s = endParse (s.setResidual (ctx.img.drop ctx.cur))) ∨
       (h.frameLength ≤ ctx.img.length - ctx.cur ∧ ∃ t, frameBody ctx h s = .ok t ∧
          parseFrame ctx s = t.setParse (some { ctx with cur := ctx.cur + h.frameLength }))) := by
  cases hh : header s.impl.maxFrameBytes ctx.img ctx.cur (ctx.img.length - ctx.cur) with
  | error r => exact .inl ⟨r, by simp only [parseFrame, hh]⟩
  | ok h =>
    by_cases hl : ctx.img.length - ctx.cur < h.frameLength
    · exact .inr ⟨h, rfl, .inl ⟨hl, by simp only [parseFrame, hh, hl, if_true]⟩⟩
    · cases hb : frameBody ctx h s with
      | error r => exact .inl ⟨r, by simp only [parseFrame, hh, hl, if_false, hb]⟩
      | ok t => exact .inr ⟨h, rfl, .inr ⟨not_lt.mp hl, t, hb, by simp only [parseFrame, hh, hl, if_false, hb]⟩⟩

/-- One pass ends the PARSE, or takes the frame at the cursor, or finds the next pattern and takes the frame there
(R161, R162). -/
theorem parsePass_cases (ctx : ParseCtx) (s : State) :
    parsePass ctx s = endParse s ∨
    (ctx.cur < ctx.img.length ∧ s.fr.sync = .synchronized ∧ parsePass ctx s = parseFrame ctx s) ∨
    ∃ p, p < ctx.img.length ∧ s.fr.sync = .unsynchronized ∧ parsePass ctx s =
      parseFrame { ctx with cur := p } ((s.setSync .synchronized).setParse (some { ctx with cur := p })) := by
  by_cases hc : ctx.img.length ≤ ctx.cur
  · exact .inl (by simp only [parsePass, hc, if_true])
  · cases hs : s.fr.sync with
    | synchronized => exact .inr (.inl ⟨not_le.mp hc, rfl, by simp only [parsePass, hc, if_false, hs]⟩)
    | unsynchronized =>
      cases hp : scan ctx.img ctx.cur with
      | none => exact .inl (by simp only [parsePass, hc, if_false, hs, hp])
      | some p =>
        have hlt := (scan_bounds hp).2
        exact .inr (.inr ⟨p, by omega, rfl, by simp only [parsePass, hc, if_false, hs, hp]⟩)

/-! What passes and rows keep, their sequences keep. -/

/-- What every pass keeps, the dispatch loop keeps. -/
theorem parseLoop_preserves {P : State → Prop} (hpass : ∀ ctx s, s.parse = some ctx → P s → P (parsePass ctx s))
    (fuel : Nat) {s : State} (h : P s) : P (parseLoop fuel s) := by
  induction fuel generalizing s with
  | zero => exact h
  | succ n ih =>
    unfold parseLoop
    split
    · exact h
    · next ctx hctx => exact ih (hpass ctx s hctx h)

/-- A sequence of two decoding operations that succeeds: the first has, and the second with its value. -/
theorem except_bind_ok {ε α β : Type} {x : Except ε α} {f : α → Except ε β} {r : β} (h : x >>= f = .ok r) :
    ∃ a, x = .ok a ∧ f a = .ok r := by
  cases x with
  | error e => cases h
  | ok a => exact ⟨a, rfl, h⟩

/-- What every row's pass keeps, the expansion loop keeps. -/
theorem expandRows_preserves {P : State → Prop} {img : List Byte} {p : Nat} {h : Header} {ts0 : I64}
    (hrow : ∀ i raw s, P s → P (sampleFrame h ts0 i raw s)) {rows : List Nat} {s t : State}
    (hx : expandRows img p h ts0 rows s = .ok t) (hs : P s) : P t := by
  induction rows generalizing s with
  | nil =>
    cases hx
    exact hs
  | cons i rest ih =>
    obtain ⟨raw, -, hrest⟩ := except_bind_ok hx
    exact ih hrest (hrow i raw s hs)

/-- What a configuration that decodes and every row's pass keep, a frame body keeps (R165). -/
theorem frameBody_preserves {P : State → Prop} {ctx : ParseCtx} {h : Header} {s t : State}
    (hcfg : ∀ f, decodeConfig ctx.img ctx.cur h = .ok f → P s → P (commitConfig f s))
    (hrow : ∀ ts0 i raw s, P s → P (sampleFrame h ts0 i raw s))
    (hx : frameBody ctx h s = .ok t) (hs : P s) : P t := by
  unfold frameBody at hx
  cases hf : h.frameType with
  | configuration =>
    rw [hf] at hx
    obtain ⟨f, hdec, rfl⟩ := configFrame_ok.mp hx
    exact hcfg f hdec hs
  | data =>
    rw [hf] at hx
    obtain ⟨-, -, hx⟩ := except_bind_ok hx
    obtain ⟨ts0, -, hx⟩ := except_bind_ok hx
    exact expandRows_preserves (hrow ts0) hx hs

/-! APPLY, seen from the estimator. -/

theorem lazyEstimator_of_some {s : State} {e : Estimator} (b : ParamBundle) (h : s.fr.est = some e) :
    lazyEstimator s b = e := by
  simp only [lazyEstimator, h]

theorem lazyEstimator_of_none {s : State} (b : ParamBundle) (h : s.fr.est = none) :
    lazyEstimator s b = estBuild Trig.block b := by
  simp only [lazyEstimator, h]

/-- APPLY leaves the state alone, or with a bundle in force leaves the estimator one step further (R218, R219). -/
theorem applyEstimate_est (f : DataFrame) (s : State) :
    (applyEstimate f s).2 = s ∨ ∃ b, s.fr.params = some b ∧ (applyEstimate f s).2.fr.est =
      some (estStep Trig.block (lazyEstimator s b) (inputs s f) f.timestamp).1 := by
  rcases applyEstimate_cases f s with h | ⟨b, hb, -, h⟩
  · exact .inl (by rw [h])
  · exact .inr ⟨b, hb, by rw [h, applyAnswer_lastEstCell]; rfl⟩

/-! Events, parameters and constants. -/

/-- From `s` on, events were appended only, the implementation parameters were kept, and an estimator held in `s` is
still held, with its constants and tables (R33, R47, R51). -/
structure State.Continues (s t : State) : Prop where
  out : ∃ l, t.out = s.out ++ l
  impl : t.impl = s.impl
  const : ∀ e, s.fr.est = some e → ∃ e', t.fr.est = some e' ∧ e'.const = e.const

theorem State.Continues.trans {s t u : State} (h : s.Continues t) (h' : t.Continues u) : s.Continues u := by
  obtain ⟨l, hl⟩ := h.out
  obtain ⟨l', hl'⟩ := h'.out
  refine ⟨⟨l ++ l', by rw [hl', hl, List.append_assoc]⟩, h'.impl.trans h.impl, fun e he => ?_⟩
  obtain ⟨e₁, he₁, hc₁⟩ := h.const e he
  obtain ⟨e₂, he₂, hc₂⟩ := h'.const e₁ he₁
  exact ⟨e₂, he₂, hc₂.trans hc₁⟩

/-- Writes of the other fields continue the state. -/
theorem State.Continues.of_eq {s t : State} (hout : t.out = s.out := by rfl) (himpl : t.impl = s.impl := by rfl)
    (hest : t.fr.est = s.fr.est := by rfl) : s.Continues t :=
  ⟨⟨[], by rw [hout, List.append_nil]⟩, himpl, fun e he => ⟨e, hest.trans he, rfl⟩⟩

/-- An event and writes of the other fields continue the state. -/
theorem State.Continues.of_emit {s t : State} (v : Event) (hout : t.out = s.out ++ [v] := by rfl)
    (himpl : t.impl = s.impl := by rfl) (hest : t.fr.est = s.fr.est := by rfl) : s.Continues t :=
  ⟨⟨[v], hout⟩, himpl, fun e he => ⟨e, hest.trans he, rfl⟩⟩

theorem applyEstimate_continues (f : DataFrame) (s : State) : s.Continues (applyEstimate f s).2 := by
  rcases applyEstimate_est f s with h | ⟨b, -, hest⟩
  · rw [h]
    exact .of_eq
  · refine ⟨⟨[], by rw [applyEstimate_frame, List.append_nil]⟩, by rw [applyEstimate_frame], fun e he => ?_⟩
    rw [lazyEstimator_of_some b he] at hest
    exact ⟨_, hest, estStep_const _ _ _ _⟩

theorem sampleFrame_continues (h : Header) (ts0 : I64) (i : Nat) (raw : PerChannel I32) (s : State) :
    s.Continues (sampleFrame h ts0 i raw s) :=
  (applyEstimate_continues (newFrame s.haveCfg h i (rowTimestamp ts0 i) raw) s).trans (.of_emit _)

theorem parseException_continues (ctx : ParseCtx) (r : Raise) (s : State) :
    s.Continues (parseException ctx r s) := by
  unfold parseException resumeAfterException
  split
  · exact .of_emit (.parsingException r.exc r.info)
  · exact .of_emit (.parsingException r.exc r.info)

theorem parseFrame_continues (ctx : ParseCtx) (s : State) : s.Continues (parseFrame ctx s) := by
  rcases parseFrame_cases ctx s with ⟨r, h⟩ | ⟨_, -, ⟨-, h⟩ | ⟨-, t, hbody, h⟩⟩ <;> rw [h]
  · exact parseException_continues ctx r s
  · exact .of_eq
  · have ht : s.Continues t := frameBody_preserves (fun f _ _ => .of_emit (.receivedConfigurationFrame f))
      (fun ts0 i raw u hu => hu.trans (sampleFrame_continues _ ts0 i raw u)) hbody .of_eq
    exact ht.trans .of_eq

theorem parsePass_continues (ctx : ParseCtx) (s : State) : s.Continues (parsePass ctx s) := by
  rcases parsePass_cases ctx s with h | ⟨-, -, h⟩ | ⟨p, -, -, h⟩ <;> rw [h]
  · exact .of_eq
  · exact parseFrame_continues ctx s
  · exact State.Continues.trans .of_eq (parseFrame_continues _ _)

/-- Every command but RESET continues the state. -/
theorem CommandEffect.continues {c : Command} {s t : State} (h : CommandEffect c s t) :
    s.Continues t ∨ (c.code = 0x01#8 ∧ t.out = s.out ∧ t.impl = s.impl ∧ t.fr.est = none) := by
  cases h with
  | reset hcode => exact .inr ⟨hcode, rfl, rfl, rfl⟩
  | parse buf =>
    exact .inl (parseLoop_preserves (fun ctx u _ hu => hu.trans (parsePass_continues ctx u)) _ .of_eq)
  | estreset e he =>
    refine .inl ⟨⟨[], (List.append_nil _).symm⟩, rfl, fun e' he' => ⟨estReset e, rfl, ?_⟩⟩
    cases he.symm.trans he'
    rfl
  | start => exact .inl .of_eq
  | loadparam => exact .inl .of_eq
  | status => exact .inl .of_eq

/-- A step continues the state, unless it is a RESET, which discards the estimator and appends nothing (R51, R141). -/
theorem step_continues {s t : State} (h : step s = .next t) :
    s.Continues t ∨ (t.out = s.out ∧ t.impl = s.impl ∧ t.fr.est = none ∧ s.parse = none ∧
      ∃ c rest, s.program = c :: rest ∧ c.code = 0x01#8) := by
  rcases step_cases h with ⟨ctx, -, rfl⟩ | rfl | ⟨hparse, c, rest, hprog, heff⟩
  · exact .inl (parsePass_continues ctx s)
  · exact .inl .of_eq
  · rcases heff.continues with hcont | ⟨hcode, hout, himpl, hest⟩
    · exact .inl (State.Continues.trans .of_eq hcont)
    · exact .inr ⟨hout, himpl, hest, hparse, c, rest, hprog, hcode⟩

/-- Settles O16: a step continues the state, or is a RESET. -/
theorem stepAppendsEventsAndKeepsConstants : Obligations.StepAppendsEventsAndKeepsConstants := by
  intro s t hstep
  rcases step_continues hstep with h | ⟨hout, himpl, hreset⟩
  · exact ⟨h.out, h.impl, fun e he => .inl (h.const e he)⟩
  · exact ⟨⟨[], by rw [hout, List.append_nil]⟩, himpl, fun _ _ => .inr hreset⟩

/-! The estimator's own invariant. -/

theorem estimator_wf_iff {e : Estimator} : e.wf = true ↔
    1 ≤ e.const.N ∧ 1 ≤ e.const.M ∧ 1 ≤ e.const.R ∧ e.const.cosT.length = e.const.N ∧
      e.const.sinT.length = e.const.N ∧ (∀ c, (e.vars.buf.get c).length = e.const.N) ∧
      e.vars.wr = e.vars.total % e.const.N ∧ e.vars.sinceRecalc < e.const.R ∧
      (e.vars.total < e.const.N → e.vars.prevPhase = none) ∧
      e.vars.prevPhase.isSome = e.vars.prevTs.isSome := by
  have hbuf : (∀ b ∈ e.vars.buf.toList, b.length = e.const.N) ↔ ∀ c, (e.vars.buf.get c).length = e.const.N := by
    simp only [perChannel_mem_toList, forall_exists_index, forall_apply_eq_imp_iff]
  simp only [Estimator.wf, decide_eq_true_eq, hbuf]

/-- Part A keeps the recalculation counter below the interval. -/
theorem takeSample_sinceRecalc_lt {e : Estimator} (x : PerChannel F64) (h : e.vars.sinceRecalc < e.const.R) :
    (takeSample e x).vars.sinceRecalc < e.const.R := by
  rcases takeSample_cases e x with ⟨_, ht⟩ | ⟨_, _, ht⟩ | ⟨_, _, ht⟩ | ⟨_, hlt, ht⟩ <;> rw [ht]
  · exact h
  · exact Nat.zero_lt_of_lt h
  · exact Nat.zero_lt_of_lt h
  · exact hlt

/-- EST.STEP keeps the estimator's invariant: part B writes tracking registers only, and only in a full window. -/
theorem estStep_wf (T : Trig) {e : Estimator} (x : PerChannel F64) (ts : I64) (h : e.wf = true) :
    (estStep T e x ts).1.wf = true := by
  rw [estimator_wf_iff] at h ⊢
  obtain ⟨hN, hM, hR, hcos, hsin, hbuf, hwr, hsince, hphase, hflags⟩ := h
  have hbuf' : ∀ c, ((takeSample e x).vars.buf.get c).length = e.const.N := fun c => by
    rw [takeSample_buf, List.length_set, hbuf]
  have hwr' : (e.vars.wr + 1) % e.const.N = (e.vars.total + 1) % e.const.N := by rw [hwr, Nat.mod_add_mod]
  have hsince' := takeSample_sinceRecalc_lt x hsince
  rcases estStep_cases T e x ts with ⟨hlt, hstep⟩ | ⟨hge, hstep⟩
  · simp only [hstep, takeSample_const, takeSample_wr, takeSample_total, takeSample_prevPhase, takeSample_prevTs]
    exact ⟨hN, hM, hR, hcos, hsin, hbuf', hwr', hsince', fun _ => hphase (by omega), hflags⟩
  · simp only [hstep, extractAndTrack, track_const, track_buf, track_wr, track_total, track_sinceRecalc,
      track_prevPhase, track_prevTs, takeSample_const, takeSample_wr, takeSample_total]
    exact ⟨hN, hM, hR, hcos, hsin, hbuf', hwr', hsince', fun hlt => absurd hlt (by omega), rfl⟩

/-- EST.RESET keeps the estimator's invariant. -/
theorem estReset_wf {e : Estimator} (h : e.wf = true) : (estReset e).wf = true := by
  rw [estimator_wf_iff] at h ⊢
  obtain ⟨hN, hM, hR, hcos, hsin, -⟩ := h
  exact ⟨hN, hM, hR, hcos, hsin, by simp [estReset, estInitialVars], (Nat.zero_mod _).symm, hR, fun _ => rfl, rfl⟩

/-- A bundle that LOADPARAM accepts builds an estimator that meets its invariant (R143, R241). -/
theorem estBuild_wf (T : Trig) {w : Option Nat} {b : ParamBundle} (h : validBundle w b = true) :
    (estBuild T b).wf = true := by
  simp only [validBundle, Bool.and_eq_true, decide_eq_true_eq] at h
  obtain ⟨⟨⟨⟨⟨⟨⟨⟨hrate, hdvd⟩, htarget⟩, -⟩, -⟩, -⟩, -⟩, -⟩, hrecalc⟩ := h
  have hspc : 0 < samplesPerCycle b.nominalFrequency := by cases b.nominalFrequency <;> decide
  have hR : 1 ≤ (estConstants T b).R := Nat.mul_pos hspc (by omega)
  have hM : 1 ≤ (estConstants T b).M :=
    Nat.div_pos (Nat.le_of_dvd (by decide) (Nat.dvd_of_mod_eq_zero hdvd)) hrate
  rw [estimator_wf_iff]
  exact ⟨Nat.mul_pos hspc (by omega), hM, hR, by simp [estBuild, estConstants], by simp [estBuild, estConstants],
    by simp [estBuild, estInitialVars], (Nat.zero_mod _).symm, hR, fun _ => rfl, rfl⟩

/-! The invariants in three parts, each about fields of its own: framing, configuration, estimator. -/

/-- I1, I2 and the cursor's place: what the invariants say of the synchronisation, the residual and the parse image. -/
structure State.FramingInv (s : State) : Prop where
  residual_empty_when_unsynchronized : s.fr.sync = .unsynchronized → s.fr.residual = []
  residual_is_partial_frame : s.fr.residual ≠ [] → partialFrame s.impl.maxFrameBytes s.fr.residual
  cursor_in_image : ∀ ctx, s.parse = some ctx → s.fr.residual = [] ∧ ctx.cur ≤ ctx.img.length

/-- I4, I5 and the bundle's legality: what the invariants say of the bundle, the estimator and the retained cell. -/
structure State.EstimatorInv (s : State) : Prop where
  bundle_valid : ∀ b, s.fr.params = some b → validBundle s.impl.maxWindow b = true
  estimator_wf : ∀ e, s.fr.est = some e → e.wf = true
  estimator_has_bundle : s.fr.est ≠ none → s.fr.params ≠ none
  estimator_history : s.EstHistory
  cell_has_estimator : s.fr.lastEstCell ≠ none → s.fr.est ≠ none

/-- I3 -/
def State.ConfigInv (s : State) : Prop :=
  ∀ c, s.fr.cfg = some c → c.analogCount.toNat = 6 ∧ c.digitalCount.toNat = 0 ∧ c.sampleRate.toInt = 3000

theorem State.inv_iff {s : State} : s.Inv ↔ s.FramingInv ∧ s.ConfigInv ∧ s.EstimatorInv :=
  ⟨fun ⟨h1, h2, h3, h4, h5, h6, h7, h8, h9⟩ => ⟨⟨h1, h2, h9⟩, h3, ⟨h4, h5, h6, h7, h8⟩⟩,
    fun ⟨⟨h1, h2, h9⟩, h3, ⟨h4, h5, h6, h7, h8⟩⟩ => ⟨h1, h2, h3, h4, h5, h6, h7, h8, h9⟩⟩

theorem State.FramingInv.of_eq {s t : State} (h : s.FramingInv) (hsync : t.fr.sync = s.fr.sync := by rfl)
    (hres : t.fr.residual = s.fr.residual := by rfl) (hparse : t.parse = s.parse := by rfl)
    (himpl : t.impl = s.impl := by rfl) : t.FramingInv := by
  obtain ⟨h1, h2, h3⟩ := h
  exact ⟨hsync ▸ hres ▸ h1, hres ▸ himpl ▸ h2, hparse ▸ hres ▸ h3⟩

theorem State.EstimatorInv.of_eq {s t : State} (h : s.EstimatorInv) (hparams : t.fr.params = s.fr.params := by rfl)
    (hest : t.fr.est = s.fr.est := by rfl) (hcell : t.fr.lastEstCell = s.fr.lastEstCell := by rfl)
    (himpl : t.impl = s.impl := by rfl) : t.EstimatorInv := by
  obtain ⟨h1, h2, h3, h4, h5⟩ := h
  have hhist : t.EstHistory := by rwa [State.EstHistory, hest, hcell, himpl]
  exact ⟨hparams ▸ himpl ▸ h1, hest ▸ h2, hest ▸ hparams ▸ h3, hhist, hcell ▸ hest ▸ h5⟩

/-- A residual that is empty, and no cursor outside its image, are all that framing asks for. -/
theorem State.FramingInv.of_residual_nil {t : State} (hres : t.fr.residual = [])
    (hcur : ∀ ctx, t.parse = some ctx → ctx.cur ≤ ctx.img.length) : t.FramingInv :=
  ⟨fun _ => hres, fun h => absurd hres h, fun ctx hctx => ⟨hres, hcur ctx hctx⟩⟩

/-- With no estimator and no retained cell, only the bundle is left to be legal. -/
theorem State.EstimatorInv.of_none {t : State} (hest : t.fr.est = none) (hcell : t.fr.lastEstCell = none)
    (hb : ∀ b, t.fr.params = some b → validBundle t.impl.maxWindow b = true) : t.EstimatorInv where
  bundle_valid := hb
  estimator_wf e he := by cases hest.symm.trans he
  estimator_has_bundle h := absurd hest h
  estimator_history e he := by cases hest.symm.trans he
  cell_has_estimator h := absurd hcell h

/-- FR at its reset values meets the invariants when no PARSE is in progress (R53). -/
theorem inv_of_framer_reset {s : State} (hfr : s.fr = Framer.reset) (hparse : s.parse = none) : s.Inv := by
  refine State.inv_iff.mpr ⟨.of_residual_nil ?_ ?_, ?_, .of_none ?_ ?_ ?_⟩ <;>
    simp [State.ConfigInv, hfr, hparse, Framer.reset]

/-- Settles O14: power-on is FR at its reset values and no PARSE. -/
theorem powerOnMeetsInvariants : Obligations.PowerOnMeetsInvariants := inv_of_framer_reset rfl rfl

/-! Writes of one part's fields keep the invariants of the others. -/

/-- Writes outside the fields the invariants speak of keep them. -/
theorem State.Inv.of_eq {s t : State} (h : s.Inv) (hfr : t.fr = s.fr := by rfl) (hparse : t.parse = s.parse := by rfl)
    (himpl : t.impl = s.impl := by rfl) : t.Inv := by
  obtain ⟨hf, hc, he⟩ := State.inv_iff.mp h
  refine State.inv_iff.mpr ⟨hf.of_eq ?_ ?_ hparse himpl, ?_, he.of_eq ?_ ?_ ?_ himpl⟩
  case refine_3 => rwa [State.ConfigInv, hfr]
  all_goals rw [hfr]

/-- Writes of the framing fields keep the rest of the invariants. -/
theorem State.Inv.of_framing {s t : State} (h : s.Inv) (hf : t.FramingInv) (hcfg : t.fr.cfg = s.fr.cfg := by rfl)
    (hparams : t.fr.params = s.fr.params := by rfl) (hest : t.fr.est = s.fr.est := by rfl)
    (hcell : t.fr.lastEstCell = s.fr.lastEstCell := by rfl) (himpl : t.impl = s.impl := by rfl) : t.Inv := by
  obtain ⟨-, hc, he⟩ := State.inv_iff.mp h
  exact State.inv_iff.mpr ⟨hf, by rwa [State.ConfigInv, hcfg], he.of_eq hparams hest hcell himpl⟩

/-- Writes of the bundle, the estimator and the retained cell keep the rest of the invariants. -/
theorem State.Inv.of_estimator {s t : State} (h : s.Inv) (he : t.EstimatorInv)
    (hsync : t.fr.sync = s.fr.sync := by rfl) (hres : t.fr.residual = s.fr.residual := by rfl)
    (hcfg : t.fr.cfg = s.fr.cfg := by rfl) (hparse : t.parse = s.parse := by rfl)
    (himpl : t.impl = s.impl := by rfl) : t.Inv := by
  obtain ⟨hf, hc, -⟩ := State.inv_iff.mp h
  exact State.inv_iff.mpr ⟨hf.of_eq hsync hres hparse himpl, by rwa [State.ConfigInv, hcfg], he⟩

/-! Configuration frames. -/

theorem require_ok {ok : Bool} {r : Raise} {u : Unit} (h : require ok r = .ok u) : ok = true := by
  cases ok with
  | true => rfl
  | false => cases h

/-- A configuration that decodes has the counts and the rate CFG requires (R191). -/
theorem decodeConfig_counts {img : List Byte} {p : Nat} {h : Header} {f : ConfigurationFrame}
    (hx : decodeConfig img p h = .ok f) :
    f.analogCount.toNat = 6 ∧ f.digitalCount.toNat = 0 ∧ f.sampleRate.toInt = 3000 := by
  obtain ⟨analogCount, -, hx⟩ := except_bind_ok hx
  obtain ⟨_, hanalog, hx⟩ := except_bind_ok hx
  obtain ⟨digitalCount, -, hx⟩ := except_bind_ok hx
  obtain ⟨_, hdigital, hx⟩ := except_bind_ok hx
  obtain ⟨sampleRate, -, hx⟩ := except_bind_ok hx
  obtain ⟨_, hrate, hx⟩ := except_bind_ok hx
  obtain ⟨scalar, -, hx⟩ := except_bind_ok hx
  obtain ⟨⟨station, a⟩, -, hx⟩ := except_bind_ok hx
  obtain ⟨⟨names, a'⟩, -, hx⟩ := except_bind_ok hx
  cases hx
  obtain rfl := of_decide_eq_true (require_ok hanalog)
  obtain rfl := of_decide_eq_true (require_ok hdigital)
  exact ⟨rfl, rfl, of_decide_eq_true (require_ok hrate)⟩

theorem commitConfig_inv {f : ConfigurationFrame} {s : State} {img : List Byte} {p : Nat} {h : Header}
    (hdec : decodeConfig img p h = .ok f) (hs : s.Inv) : (commitConfig f s).Inv := by
  obtain ⟨hf, -, he⟩ := State.inv_iff.mp hs
  refine State.inv_iff.mpr ⟨hf.of_eq, ?_, he.of_eq⟩
  rintro c hc
  cases hc
  exact decodeConfig_counts hdec

/-! Data frames. -/

theorem lazyEstimator_wf {s : State} {b : ParamBundle} (hs : s.EstimatorInv) (hb : s.fr.params = some b) :
    (lazyEstimator s b).wf = true := by
  cases he : s.fr.est with
  | some e => exact lazyEstimator_of_some b he ▸ hs.estimator_wf e he
  | none => exact lazyEstimator_of_none b he ▸ estBuild_wf Trig.block (hs.bundle_valid b hb)

/-- APPLY keeps the estimator's part of the invariants; where E and the cell come from is `applyEstimate_history`. -/
theorem applyEstimate_estimatorInv (f : DataFrame) {s : State} (hs : s.EstimatorInv) :
    (applyEstimate f s).2.EstimatorInv := by
  rcases applyEstimate_est f s with h | ⟨b, hb, hest⟩
  · rwa [h]
  have hparams : (applyEstimate f s).2.fr.params = s.fr.params := by rw [applyEstimate_frame]
  have himpl : (applyEstimate f s).2.impl = s.impl := by rw [applyEstimate_frame]
  exact {
    bundle_valid := by rw [hparams, himpl]; exact hs.bundle_valid
    estimator_wf := fun e he => by
      cases hest.symm.trans he
      exact estStep_wf _ _ _ (lazyEstimator_wf hs hb)
    estimator_has_bundle := fun _ => by simp [hparams, hb]
    estimator_history := applyEstimate_history hs.bundle_valid hs.cell_has_estimator hs.estimator_history
    cell_has_estimator := fun _ => by simp [hest] }

theorem sampleFrame_inv (h : Header) (ts0 : I64) (i : Nat) (raw : PerChannel I32) {s : State} (hs : s.Inv) :
    (sampleFrame h ts0 i raw s).Inv := by
  obtain ⟨-, -, he⟩ := State.inv_iff.mp hs
  have hest : (sampleFrame h ts0 i raw s).EstimatorInv := (applyEstimate_estimatorInv _ he).of_eq
  refine hs.of_estimator hest ?_ ?_ ?_ ?_ ?_ <;> rw [sampleFrame_frame]

theorem frameBody_inv {ctx : ParseCtx} {h : Header} {s t : State} (hx : frameBody ctx h s = .ok t) (hs : s.Inv) :
    t.Inv :=
  frameBody_preserves (fun _ hdec => commitConfig_inv hdec) (fun ts0 i raw _ => sampleFrame_inv h ts0 i raw) hx hs

/-! A deferred frame: the header read from the bytes kept is the one read at the cursor. -/

theorem beAt_drop (img : List Byte) (p a n : Nat) : beAt (img.drop p) a n = beAt img (p + a) n := by
  rw [beAt, List.drop_drop, beAt]

theorem beU8_drop (img : List Byte) (p a : Nat) : beU8 (img.drop p) a = beU8 img (p + a) :=
  congrArg (BitVec.ofNat 8) (beAt_drop img p a 1)

theorem readHeader_drop (img : List Byte) (p : Nat) : readHeader (img.drop p) 0 = readHeader img p := by
  simp only [readHeader, beU8_drop, beU16, beU32, beU64, beAt_drop, Nat.add_zero, Nat.zero_add]

/-- HDR succeeds on whatever passes its checks: the converse of `header_ok`. -/
theorem header_eq_ok {m : Option Nat} {img : List Byte} {p avail : Nat} (havail : 16 ≤ avail)
    (himg : p + 16 ≤ img.length) (hver : beU8 img (p + 1) = 0x01#8)
    (htype : beU8 img p = 0x00#8 ∨ beU8 img p = 0x01#8) (hmin : 16 ≤ (readHeader img p).frameLength)
    (hmax : ∀ k, m = some k → (readHeader img p).frameLength ≤ k) :
    header m img p avail = .ok (readHeader img p) := by
  have hshort : ¬(avail < 16 ∨ img.length < p + 16) := by omega
  have htype' : ¬(beU8 img p ≠ 0x00#8 ∧ beU8 img p ≠ 0x01#8) := by tauto
  have hlen : frameLengthOk m (readHeader img p).frameLength = true := by
    cases m with
    | none => simpa [frameLengthOk] using hmin
    | some k => simpa [frameLengthOk] using ⟨hmin, hmax k rfl⟩
  simp only [header, if_neg hshort, hver, ne_eq, not_true_eq_false, if_false, if_neg htype', hlen, if_true]

theorem header_drop {m : Option Nat} {img : List Byte} {p : Nat} {h : Header}
    (hh : header m img p (img.length - p) = .ok h) : header m (img.drop p) 0 (img.drop p).length = .ok h := by
  obtain ⟨havail, himg, rfl, hver, htype, hmin, hmax⟩ := header_ok hh
  rw [← readHeader_drop] at hmin hmax ⊢
  apply header_eq_ok _ _ _ _ hmin hmax
  · rwa [List.length_drop]
  · rwa [List.length_drop, Nat.zero_add]
  · rwa [beU8_drop]
  · rwa [beU8_drop]

/-- What a deferral keeps is a partial frame (R54 I2, R164). -/
theorem partialFrame_drop {m : Option Nat} {img : List Byte} {p : Nat} {h : Header}
    (hh : header m img p (img.length - p) = .ok h) (hl : img.length - p < h.frameLength) :
    partialFrame m (img.drop p) :=
  ⟨h, header_drop hh, by rwa [List.length_drop]⟩

/-! The dispatch loop. -/

/-- The exception path leaves no residual, and rescans from a place inside the image (R167, R317). -/
theorem parseException_inv {ctx : ParseCtx} {s : State} (r : Raise) (hcur : ctx.cur < ctx.img.length) (hs : s.Inv) :
    (parseException ctx r s).Inv := by
  unfold parseException resumeAfterException
  split
  · exact hs.of_framing (.of_residual_nil rfl fun _ h => nomatch h)
  · refine hs.of_framing (.of_residual_nil rfl fun c h => ?_)
    cases h
    exact hcur

theorem endParse_inv {s : State} (hs : s.Inv) : (endParse s).Inv :=
  hs.of_framing ⟨hs.residual_empty_when_unsynchronized, hs.residual_is_partial_frame, fun _ h => nomatch h⟩

theorem parseFrame_inv {ctx : ParseCtx} {s : State} (hparse : s.parse = some ctx) (hsync : s.fr.sync = .synchronized)
    (hcur : ctx.cur < ctx.img.length) (hs : s.Inv) : (parseFrame ctx s).Inv := by
  rcases parseFrame_cases ctx s with ⟨r, h⟩ | ⟨hdr, hh, ⟨hl, h⟩ | ⟨hl, t, hbody, h⟩⟩ <;> rw [h]
  · exact parseException_inv r hcur hs
  · have hsynced : (endParse (s.setResidual (ctx.img.drop ctx.cur))).fr.sync = .synchronized := hsync
    exact hs.of_framing ⟨fun hu => (by cases hsynced.symm.trans hu), fun _ => partialFrame_drop hh hl,
      fun _ h => nomatch h⟩
  · obtain ⟨-, hres, -⟩ := frameBody_ok hbody
    have hnil : t.fr.residual = [] := hres.trans (hs.cursor_in_image ctx hparse).1
    refine (frameBody_inv hbody hs).of_framing (.of_residual_nil hnil fun c h => ?_)
    cases h
    exact (by omega : ctx.cur + hdr.frameLength ≤ ctx.img.length)

theorem parsePass_inv {ctx : ParseCtx} {s : State} (hparse : s.parse = some ctx) (hs : s.Inv) :
    (parsePass ctx s).Inv := by
  rcases parsePass_cases ctx s with h | ⟨hcur, hsync, h⟩ | ⟨p, hp, hsync, h⟩ <;> rw [h]
  · exact endParse_inv hs
  · exact parseFrame_inv hparse hsync hcur hs
  · refine parseFrame_inv rfl rfl hp (hs.of_framing (.of_residual_nil ?_ fun c h => ?_))
    · exact hs.residual_empty_when_unsynchronized hsync
    · cases h
      exact hp.le

theorem beginParse_inv (buf : List Byte) {s : State} (hs : s.Inv) : (beginParse buf s).Inv := by
  refine hs.of_framing (.of_residual_nil rfl fun c h => ?_)
  cases h
  exact Nat.zero_le _

/-! Commands and steps. -/

theorem loadparam_estimatorInv {s : State} {b : ParamBundle} (hb : validBundle s.impl.maxWindow b = true)
    (hs : s.EstimatorInv) : (s.setParams (some b)).EstimatorInv where
  bundle_valid b' h := by
    cases h
    exact hb
  estimator_wf := hs.estimator_wf
  estimator_has_bundle _ := Option.some_ne_none b
  estimator_history := hs.estimator_history
  cell_has_estimator := hs.cell_has_estimator

theorem estreset_estimatorInv {s : State} {e : Estimator} (he : s.fr.est = some e) (hs : s.EstimatorInv) :
    (s.setEst (some (estReset e))).EstimatorInv where
  bundle_valid := hs.bundle_valid
  estimator_wf e' h := by
    cases h
    exact estReset_wf (hs.estimator_wf e he)
  estimator_has_bundle _ := hs.estimator_has_bundle (by simp [he])
  estimator_history := estReset_history he hs.estimator_history
  cell_has_estimator _ := Option.some_ne_none _

theorem CommandEffect.inv {c : Command} {s t : State} (h : CommandEffect c s t) (hparse : s.parse = none)
    (hs : s.Inv) : t.Inv := by
  obtain ⟨-, -, he⟩ := State.inv_iff.mp hs
  cases h with
  | reset => exact inv_of_framer_reset rfl hparse
  | start => exact hs.of_framing (.of_residual_nil rfl fun ctx h => nomatch hparse.symm.trans h)
  | loadparam b hb => exact hs.of_estimator (loadparam_estimatorInv hb he).of_eq
  | parse buf => exact parseLoop_preserves (fun _ _ => parsePass_inv) _ (beginParse_inv buf hs)
  | estreset e hest => exact hs.of_estimator (estreset_estimatorInv hest he).of_eq
  | status v => exact hs.of_eq

/-- Settles O15, by what a step can do: each pass keeps the invariants, and each command keeps them. -/
theorem stepKeepsInvariants : Obligations.StepKeepsInvariants := by
  intro s t hs hstep
  rcases step_cases hstep with ⟨ctx, hparse, rfl⟩ | rfl | ⟨hparse, c, rest, -, heff⟩
  · exact parsePass_inv hparse hs
  · exact hs
  · exact heff.inv hparse hs.of_eq

end Sys2Proof.Machine
end

section
/-! PROOF. Bytes that stand at an offset of a parse image: big-endian fields and their bounded reads (20_memory R72 to
R79), and the encoder against the decoder (30_encoding R113, R121, 42_header R183). -/

namespace Sys2Proof.Machine

/-! Big-endian fields. -/

@[simp] theorem beBytes_length (n v : Nat) : (beBytes n v).length = n := by
  induction n with
  | zero => rfl
  | succ n ih => simp [beBytes, ih]

theorem beNat_beBytes (n v : Nat) : beNat (beBytes n v) = v % 256 ^ n := by
  induction n with
  | zero => simp [beBytes, beNat, Nat.mod_one]
  | succ n ih =>
    have hmod : v % 256 ^ (n + 1) = v % 256 ^ n + 256 ^ n * (v / 256 ^ n % 256) := by rw [pow_succ, Nat.mod_mul]
    rw [beBytes, beNat, beBytes_length, ih, hmod, BitVec.toNat_ofNat, Nat.add_comm, Nat.mul_comm]

/-- The bytes above the `n` low ones do not show in `beBytes n`. -/
theorem beBytes_mul_pow_add (n k v : Nat) : beBytes n (k * 256 ^ n + v) = beBytes n v := by
  induction n generalizing k with
  | zero => rfl
  | succ n ih =>
    have hsplit : k * 256 ^ (n + 1) + v = k * 256 * 256 ^ n + v := by ring
    have hhead : (k * 256 * 256 ^ n + v) / 256 ^ n = k * 256 + v / 256 ^ n := by
      rw [Nat.add_comm, Nat.add_mul_div_right _ _ (by positivity), Nat.add_comm]
    rw [hsplit, beBytes, beBytes, ih, hhead]
    congr 1
    exact BitVec.eq_of_toNat_eq (by simp)

theorem beNat_lt (l : List Byte) : beNat l < 256 ^ l.length := by
  induction l with
  | nil => simp [beNat]
  | cons b l ih =>
    rw [beNat, List.length_cons, pow_succ']
    calc b.toNat * 256 ^ l.length + beNat l
        < b.toNat * 256 ^ l.length + 256 ^ l.length := by omega
      _ = (b.toNat + 1) * 256 ^ l.length := by ring
      _ ≤ 256 * 256 ^ l.length := Nat.mul_le_mul_right _ b.isLt

theorem beBytes_beNat (l : List Byte) : beBytes l.length (beNat l) = l := by
  induction l with
  | nil => rfl
  | cons b l ih =>
    have hhead : (b.toNat * 256 ^ l.length + beNat l) / 256 ^ l.length = b.toNat := by
      rw [Nat.add_comm, Nat.add_mul_div_right _ _ (by positivity), Nat.div_eq_of_lt (beNat_lt l), Nat.zero_add]
    rw [List.length_cons, beNat, beBytes, beBytes_mul_pow_add, ih, hhead, BitVec.ofNat_toNat, BitVec.setWidth_eq]

theorem ofNat_beNat_beBytes {w n : Nat} (hw : w = 8 * n) (v : BitVec w) :
    BitVec.ofNat w (beNat (beBytes n v.toNat)) = v := by
  have hpow : 256 ^ n = 2 ^ w := by rw [hw, pow_mul]; norm_num
  rw [beNat_beBytes, hpow, Nat.mod_eq_of_lt v.isLt, BitVec.ofNat_toNat, BitVec.setWidth_eq]

/-! What stands at an offset. -/

/-- The bytes `bs` stand in the image from offset `a` on. -/
def StandsAt (img : List Byte) (a : Nat) (bs : List Byte) : Prop := bs <+: img.drop a

theorem standsAt_zero_self (img : List Byte) : StandsAt img 0 img := List.prefix_rfl

theorem standsAt_append {img x y : List Byte} {a : Nat} :
    StandsAt img a (x ++ y) ↔ StandsAt img a x ∧ StandsAt img (a + x.length) y := by
  unfold StandsAt
  rw [← List.drop_drop]
  constructor
  · rintro ⟨t, ht⟩
    rw [← ht, List.append_assoc, List.drop_left]
    exact ⟨List.prefix_append _ _, List.prefix_append _ _⟩
  · rintro ⟨⟨t, ht⟩, hy⟩
    rw [← ht, List.drop_left] at hy
    rw [← ht]
    exact (List.prefix_append_right_inj x).mpr hy

theorem standsAt_cons {img bs : List Byte} {a : Nat} {b : Byte} :
    StandsAt img a (b :: bs) ↔ StandsAt img a [b] ∧ StandsAt img (a + 1) bs :=
  standsAt_append (x := [b])

theorem slice_of_standsAt {img bs : List Byte} {a : Nat} (h : StandsAt img a bs) : slice img a bs.length = bs :=
  (List.prefix_iff_eq_take.mp h).symm

theorem standsAt_getElem {img bs : List Byte} {a t : Nat} (h : StandsAt img a bs) (ht : t < bs.length) :
    StandsAt img (a + t) [bs[t]] := by
  rw [← List.take_append_drop t bs, List.drop_eq_getElem_cons ht, standsAt_append, standsAt_cons,
    List.length_take_of_le ht.le] at h
  exact h.2.1

/-- Of pieces of one length `k` laid end to end, number `i` stands `k * i` bytes from the first. -/
theorem standsAt_flatMap {α : Type} {f : α → List Byte} {k : Nat} (hk : ∀ x, (f x).length = k) {img : List Byte}
    {l : List α} {a i : Nat} (h : StandsAt img a (l.flatMap f)) (hi : i < l.length) :
    StandsAt img (a + k * i) (f l[i]) := by
  induction l generalizing a i with
  | nil => cases hi
  | cons x l ih =>
    rw [List.flatMap_cons, standsAt_append, hk] at h
    cases i with
    | zero => exact h.1
    | succ i =>
      have := ih h.2 (Nat.lt_of_succ_lt_succ hi)
      rwa [Nat.add_assoc, Nat.add_comm k, ← Nat.mul_succ] at this

/-- Any `n` bytes of the image are the encoding of the number read there (R72, R74). -/
theorem standsAt_beBytes_beAt {img : List Byte} {a n : Nat} (hfit : a + n ≤ img.length) :
    StandsAt img a (beBytes n (beAt img a n)) := by
  have hlen : ((img.drop a).take n).length = n := by rw [List.length_take, List.length_drop]; omega
  have hbytes : beBytes n (beAt img a n) = (img.drop a).take n := by
    have := beBytes_beNat ((img.drop a).take n)
    rwa [hlen] at this
  rw [hbytes]
  exact List.take_prefix _ _

theorem beAt_lt (img : List Byte) (a n : Nat) : beAt img a n < 256 ^ n :=
  (beNat_lt _).trans_le (Nat.pow_le_pow_right (by decide) (List.length_take_le _ _))

theorem ofNat_beAt_of_standsAt {img : List Byte} {a w n : Nat} (hw : w = 8 * n) {v : BitVec w}
    (h : StandsAt img a (beBytes n v.toNat)) : BitVec.ofNat w (beAt img a n) = v := by
  have hslice := slice_of_standsAt h
  rw [beBytes_length] at hslice
  rw [← ofNat_beNat_beBytes hw v, ← hslice]
  rfl

/-- Every bounded read of a field returns the value whose encoding stands there (R75 to R79). -/
theorem memRead_map_of_standsAt {img : List Byte} {p fl a w n : Nat} (hw : w = 8 * n) {v : BitVec w}
    (h : StandsAt img a (beBytes n v.toNat)) (hp : p ≤ a) (hend : a + n ≤ p + fl) (hfl : p + fl ≤ img.length) :
    (memRead img p fl a n).map (BitVec.ofNat w) = .ok v := by
  rw [memRead_ok.mpr ⟨⟨hp, hend, hend.trans hfl⟩, rfl⟩]
  exact congrArg Except.ok (ofNat_beAt_of_standsAt hw h)

theorem beBytes_one (b : Byte) : beBytes 1 b.toNat = [b] := by simp [beBytes]

theorem beU8_of_standsAt {img : List Byte} {a : Nat} {b : Byte} (h : StandsAt img a [b]) : beU8 img a = b :=
  ofNat_beAt_of_standsAt (n := 1) rfl (by rwa [beBytes_one])

theorem standsAt_beU8 {img : List Byte} {a : Nat} (hfit : a + 1 ≤ img.length) : StandsAt img a [beU8 img a] := by
  simpa [beBytes, beU8] using standsAt_beBytes_beAt hfit

/-! The header and the frame it begins. -/

@[simp] theorem encodeHeader_length (h : Header) : (encodeHeader h).length = 16 := by simp [encodeHeader]

/-- The encoding of the header read at `p` is what stands there, when the type and version bytes are legal (R183). -/
theorem standsAt_encodeHeader {img : List Byte} {p : Nat} (hfit : p + 16 ≤ img.length)
    (htype : beU8 img p = (readHeader img p).frameType.byte) (hver : beU8 img (p + 1) = 0x01#8) :
    StandsAt img p (encodeHeader (readHeader img p)) := by
  have htoNat : ∀ {w n : Nat} (a : Nat), 256 ^ n = 2 ^ w → (BitVec.ofNat w (beAt img a n)).toNat = beAt img a n :=
    fun {w n} a hpow => by rw [BitVec.toNat_ofNat, ← hpow, Nat.mod_eq_of_lt (beAt_lt img a n)]
  have hlen : (readHeader img p).frameLength - 6 = beAt img (p + 2) 4 := Nat.add_sub_cancel ..
  have hch : (readHeader img p).channelID.toNat = beAt img (p + 6) 8 := htoNat (p + 6) (by norm_num)
  have hcnt : (readHeader img p).packetCount.toNat = beAt img (p + 14) 2 := htoNat (p + 14) (by norm_num)
  have hone : (0x01 : Byte) = beU8 img (p + 1) := hver.symm
  rw [encodeHeader, ← htype, hone, hlen, hch, hcnt]
  simp only [standsAt_append, standsAt_cons (bs := [_]), List.length_append, List.length_cons, List.length_nil,
    beBytes_length]
  exact ⟨⟨⟨⟨standsAt_beU8 (by omega), standsAt_beU8 (by omega)⟩, standsAt_beBytes_beAt (by omega)⟩,
    standsAt_beBytes_beAt (by omega)⟩, standsAt_beBytes_beAt (by omega)⟩

/-- Writing a header where it already stands changes nothing. -/
theorem putHeader_of_standsAt {img : List Byte} {p : Nat} {h : Header} (hs : StandsAt img p (encodeHeader h)) :
    putHeader img p h = img := by
  have hslice := slice_of_standsAt hs
  rw [encodeHeader_length] at hslice
  rw [putHeader, ← hslice, slice, ← List.drop_drop, List.append_assoc, List.take_append_drop,
    List.take_append_drop]

theorem decodeFrame_data {img : List Byte} {p : Nat} (hfit : p + 16 ≤ img.length)
    (hver : beU8 img (p + 1) = 0x01#8) (htype : beU8 img p = 0x00#8) :
    decodeFrame img p = .ok (.data img p (readHeader img p)) := by
  have hshort : ¬img.length - p < 16 := by omega
  simp [decodeFrame, hshort, hver, htype]

theorem decodeFrame_cfg {img : List Byte} {p : Nat} (hfit : p + 16 ≤ img.length)
    (hver : beU8 img (p + 1) = 0x01#8) (htype : beU8 img p = 0x01#8) :
    decodeFrame img p = .ok (.cfg img p (readHeader img p)) := by
  have hshort : ¬img.length - p < 16 := by omega
  simp [decodeFrame, hshort, hver, htype]

/-- What the operand conditions of a wire frame say (R34, R190, R210). -/
theorem frameOperandsOk_iff {t : FrameType} {img : List Byte} {p : Nat} {h : Header} :
    frameOperandsOk t img p h = true ↔
      (h.version = 0x01#8 ∧ 16 ≤ h.frameLength ∧ h.frameLength ≤ 2 ^ 32 + 5) ∧
      h.frameType = t ∧ p + h.frameLength ≤ img.length ∧ beU8 img p = t.byte ∧ readHeader img p = h := by
  rw [frameOperandsOk, Header.wf, Bool.and_eq_true, decide_eq_true_iff, decide_eq_true_iff]

/-- A well-formed wire frame's image holds its header already, so that encoding it keeps the image, and the first two
bytes are those of its row (R113). -/
theorem frameOperandsOk_image {t : FrameType} {img : List Byte} {p : Nat} {h : Header}
    (hok : frameOperandsOk t img p h = true) :
    putHeader img p h = img ∧ p + 16 ≤ img.length ∧ beU8 img p = t.byte ∧ beU8 img (p + 1) = 0x01#8 ∧
      readHeader img p = h := by
  obtain ⟨⟨hver, hmin, -⟩, rfl, hfit, htype, rfl⟩ := frameOperandsOk_iff.mp hok
  have hfit16 : p + 16 ≤ img.length := by omega
  exact ⟨putHeader_of_standsAt (standsAt_encodeHeader hfit16 htype hver), hfit16, htype, hver, rfl⟩

/-- Settles O17, by the kind of operation: a command word decodes by its code, and encoding a well-formed frame gives
the image it stands in. -/
theorem decodeInvertsEncode : Obligations.DecodeInvertsEncode := by
  intro i e hwf henc
  cases i with
  | reset | start | loadparam b | parse buf | estreset | chkcalc | setfmt f =>
    cases henc
    rfl
  | data img p h =>
    obtain ⟨himg, hfit, htype, hver, hh⟩ := frameOperandsOk_image hwf
    cases henc
    rw [decode, himg, decodeFrame_data hfit hver htype, hh]
  | cfg img p h =>
    obtain ⟨himg, hfit, htype, hver, hh⟩ := frameOperandsOk_image hwf
    cases henc
    rw [decode, himg, decodeFrame_cfg hfit hver htype, hh]
  | _ => cases henc

/-! The rows of the opcode table. -/

/-- A 16-bit table word selects by its two bytes: the type in the high one, the version in the low one (R113). -/
theorem decodeTableWord_frame (w : Nat) : decodeTableWord 16 w =
    if BitVec.ofNat 8 w ≠ 0x01#8 then none
    else if BitVec.ofNat 8 (w / 256) = 0x00#8 then some (.data (tableFrame w) 0 (readHeader (tableFrame w) 0))
    else if BitVec.ofNat 8 (w / 256) = 0x01#8 then some (.cfg (tableFrame w) 0 (readHeader (tableFrame w) 0))
    else none := by
  obtain ⟨hhead, -⟩ := standsAt_append.mp (standsAt_zero_self (tableFrame w))
  obtain ⟨htype, hver⟩ := standsAt_cons.mp hhead
  have hlen : ¬(tableFrame w).length - 0 < 16 := by
    rw [tableFrame, List.length_append, List.length_replicate]
    simp
  show (decodeFrame (tableFrame w) 0).toOption = _
  rw [decodeFrame, if_neg hlen, beU8_of_standsAt htype, beU8_of_standsAt hver]
  split_ifs <;> rfl

/-- Settles O18: the command codes by the table of R121, the frame words by their two bytes. -/
theorem tableWordsSelectTheirRows : Obligations.TableWordsSelectTheirRows := by
  refine ⟨rfl, rfl, rfl, rfl, rfl, rfl, rfl, rfl, rfl, ⟨_, decodeTableWord_frame 0x0001⟩,
    ⟨_, decodeTableWord_frame 0x0101⟩, ?_, ?_⟩
  · exact decodeTableWord_frame 0x0201
  · exact decodeTableWord_frame 0x0002

end Sys2Proof.Machine
end

section
/-! PROOF. What the directives of 30_encoding R124 lay out is read back: the rows of a data packet by ROW (R105 to
R109, 44_data_frame R213), the scalars and names of a configuration frame by CFG (R102, R103, 43_config_frame R190). -/

namespace Sys2Proof.Machine

/-! Reads in sequence and in channel order. -/

theorem except_ok_bind {ε α β : Type} (a : α) (f : α → Except ε β) : (Except.ok a >>= f) = f a := rfl

theorem readPerChannel_eq_ok {α : Type} {f : Channel → Except Raise α} {t : PerChannel α}
    (h : ∀ c, f c = .ok (t.get c)) : readPerChannel f = .ok t := by
  simp only [readPerChannel, h]
  rfl

theorem channel_index_le (c : Channel) : c.index ≤ 5 := by cases c <;> decide

/-- Encodings of one length `k`, one per channel in channel order: that of channel `c` stands at `k * index c`. -/
theorem standsAt_channel {α : Type} {f : α → List Byte} {k : Nat} (hk : ∀ x, (f x).length = k) {img : List Byte}
    {t : PerChannel α} {a : Nat} (h : StandsAt img a (t.toList.flatMap f)) (c : Channel) :
    StandsAt img (a + k * c.index) (f (t.get c)) := by
  have hi : c.index < t.toList.length := Nat.lt_succ_of_le (channel_index_le c)
  have hget : t.toList[c.index] = t.get c := by cases c <;> rfl
  exact hget ▸ standsAt_flatMap hk h hi

theorem toList_flatMap_length {α : Type} {f : α → List Byte} {k : Nat} (hk : ∀ x, (f x).length = k)
    (t : PerChannel α) : (t.toList.flatMap f).length = 6 * k := by
  simp only [PerChannel.toList, List.flatMap_cons, List.flatMap_nil, List.length_append, hk, List.length_nil]
  omega

/-! The data packet. -/

@[simp] theorem hdrBytes_length (t : FrameType) (len : Nat) (ch : U64) (cnt : U16) :
    (hdrBytes t len ch cnt).length = 16 := encodeHeader_length _

@[simp] theorem rowBytes_length (raw : PerChannel I32) : (rowBytes raw).length = 24 :=
  toList_flatMap_length (fun _ => beBytes_length 4 _) raw

theorem dataPacketBytes_length (ch : U64) (cnt : U16) (epoch : I64) (rows : Nat → PerChannel I32) :
    (dataPacketBytes ch cnt epoch rows).length = 1224 := by
  simp [dataPacketBytes, List.length_flatMap]

/-- Rows are 24 bytes apart from offset 24 on (R108, R214). -/
theorem rowOff_eq (i : Nat) : rowOff i = 24 + 24 * i := by
  unfold rowOff
  split <;> omega

/-- Where the epoch and the rows of a packet stand (R105 to R109). -/
theorem standsAt_dataPacketBytes (ch : U64) (cnt : U16) (epoch : I64) (rows : Nat → PerChannel I32) :
    StandsAt (dataPacketBytes ch cnt epoch rows) 16 (beBytes 8 epoch.toNat) ∧
    ∀ i, i < 50 → StandsAt (dataPacketBytes ch cnt epoch rows) (rowOff i) (rowBytes (rows i)) := by
  have hwhole := standsAt_zero_self (dataPacketBytes ch cnt epoch rows)
  nth_rw 2 [dataPacketBytes] at hwhole
  simp only [standsAt_append, List.length_append, hdrBytes_length, beBytes_length, Nat.zero_add] at hwhole
  obtain ⟨⟨-, hepoch⟩, hrows⟩ := hwhole
  refine ⟨hepoch, fun i hi => ?_⟩
  have hrow := standsAt_flatMap (fun j => rowBytes_length (rows j)) hrows (i := i) (by rwa [List.length_range])
  rwa [List.getElem_range, ← rowOff_eq] at hrow

/-- ROW reads the row that stands at its offset (R213). -/
theorem readRow_of_standsAt {img : List Byte} {p fl i : Nat} {raw : PerChannel I32}
    (h : StandsAt img (p + rowOff i) (rowBytes raw)) (hend : rowOff i + 24 ≤ fl) (hfl : p + fl ≤ img.length) :
    readRow img p fl i = .ok raw := by
  refine readPerChannel_eq_ok fun c => ?_
  have hc := channel_index_le c
  exact memRead_map_of_standsAt rfl (standsAt_channel (fun _ => beBytes_length 4 _) h c) (by omega) (by omega) hfl

/-- Settles O20: the packet's fields stand where ROW reads them. -/
theorem dataPacketRowsRoundTrip : Obligations.DataPacketRowsRoundTrip := by
  intro ch cnt epoch rows s
  have hlen := dataPacketBytes_length ch cnt epoch rows
  obtain ⟨hepoch, hrows⟩ := standsAt_dataPacketBytes ch cnt epoch rows
  refine ⟨hlen, ofNat_beAt_of_standsAt rfl hepoch, fun i hi => ?_⟩
  have hrow : readRow (dataPacketBytes ch cnt epoch rows) 0 dataFrameLen i = .ok (rows i) := by
    have hoff := rowOff_eq i
    refine readRow_of_standsAt ?_ (by rw [dataFrameLen]; omega) (by rw [hlen]; rfl)
    rw [Nat.zero_add]
    exact hrows i hi
  show finishValue s .raw (readRow (dataPacketBytes ch cnt epoch rows) 0 dataFrameLen i) = _
  rw [hrow]
  rfl

/-! Names. -/

theorem nameBytes_length (s : List Byte) : (nameBytes s).length = s.length + 1 := by
  rw [nameBytes, List.length_append, List.length_singleton]

section
variable {img s : List Byte} {p fl a : Nat}

/-- The scan of NAME runs through the bytes of a name, none of which is 0x00, and stops at its terminator (R193). -/
theorem nameScan_of_standsAt (h : StandsAt img a (nameBytes s)) (h0 : 0x00#8 ∉ s) (hp : p ≤ a)
    (hend : a + (nameBytes s).length ≤ p + fl) (hfl : p + fl ≤ img.length) {fuel t : Nat} (ht : t ≤ s.length)
    (hfuel : s.length < fuel + t) : nameScan img p fl a fuel t = .ok (s, a + (nameBytes s).length) := by
  have hlen := nameBytes_length s
  induction fuel generalizing t with
  | zero => omega
  | succ fuel ih =>
    have htlt : t < (nameBytes s).length := by omega
    have hbyte : readU8 img p fl (a + t) = .ok (nameBytes s)[t] := by
      refine memRead_map_of_standsAt (n := 1) rfl ?_ (by omega) (by omega) hfl
      rw [beBytes_one]
      exact standsAt_getElem h htlt
    rw [nameScan, hbyte]
    by_cases heq : t = s.length
    · subst heq
      have hterm : (nameBytes s)[s.length] = 0x00#8 := List.getElem_concat_length rfl _
      have hname : slice img a s.length = s := slice_of_standsAt (standsAt_append.mp h).1
      rw [hterm, hname, hlen]
      rfl
    · have hts : t < s.length := by omega
      have hne : (nameBytes s)[t] ≠ 0x00#8 := by
        simp only [nameBytes, List.getElem_append_left hts]
        exact fun hz => h0 (hz ▸ List.getElem_mem hts)
      show (if (nameBytes s)[t] = 0x00#8 then _ else _) = _
      rw [if_neg hne]
      exact ih (by omega) (by omega)

theorem readName_of_standsAt (h : StandsAt img a (nameBytes s)) (hs : s.length ≤ 20 ∧ 0x00#8 ∉ s) (hp : p ≤ a)
    (hend : a + (nameBytes s).length ≤ p + fl) (hfl : p + fl ≤ img.length) :
    readName img p fl a = .ok (s, a + (nameBytes s).length) :=
  nameScan_of_standsAt h hs.2 hp hend hfl (Nat.zero_le _) (by omega)

/-- Names laid end to end are read one after another, each where the last one ended (R195). -/
theorem readNames_of_standsAt {names : PerChannel (List Byte)}
    (h : StandsAt img a (names.toList.flatMap nameBytes))
    (hs : ∀ c, (names.get c).length ≤ 20 ∧ 0x00#8 ∉ names.get c) (hp : p ≤ a)
    (hend : a + (names.toList.flatMap nameBytes).length ≤ p + fl) (hfl : p + fl ≤ img.length) :
    readNames img p fl a = .ok (names, a + (names.toList.flatMap nameBytes).length) := by
  simp only [PerChannel.toList, List.flatMap_cons, List.flatMap_nil, List.append_nil, List.length_append,
    standsAt_append, ← Nat.add_assoc] at h hend ⊢
  obtain ⟨h0, h1, h2, h3, h4, h5⟩ := h
  simp only [readNames, readName_of_standsAt h0 (hs .ia) (by omega) (by omega) hfl,
    readName_of_standsAt h1 (hs .ib) (by omega) (by omega) hfl,
    readName_of_standsAt h2 (hs .ic) (by omega) (by omega) hfl,
    readName_of_standsAt h3 (hs .va) (by omega) (by omega) hfl,
    readName_of_standsAt h4 (hs .vb) (by omega) (by omega) hfl,
    readName_of_standsAt h5 (hs .vc) (by omega) (by omega) hfl, except_ok_bind]
  rfl

end

/-! The configuration frame. -/

/-- Where the parts of a configuration frame stand (R102): the fixed block, the scalars, the names. -/
theorem standsAt_cfgFrameBytes (ch : U64) (cnt : U16) (scalar : PerChannel F32) (station : List Byte)
    (names : PerChannel (List Byte)) :
    let img := cfgFrameBytes ch cnt scalar station names
    img.length = 48 + (nameBytes station).length + (names.toList.flatMap nameBytes).length ∧
    StandsAt img 16 (beBytes 2 (6#16).toNat) ∧ StandsAt img 18 (beBytes 2 (0#16).toNat) ∧
    StandsAt img 20 (beBytes 4 (3000#32).toNat) ∧
    StandsAt img 24 (scalar.toList.flatMap fun v => beBytes 4 v.toNat) ∧
    StandsAt img 48 (nameBytes station) ∧
    StandsAt img (48 + (nameBytes station).length) (names.toList.flatMap nameBytes) := by
  intro img
  have hscalar := toList_flatMap_length (fun v : F32 => beBytes_length 4 v.toNat) scalar
  have hwhole : StandsAt img 0 (cfgFrameBytes ch cnt scalar station names) := standsAt_zero_self img
  simp only [cfgFrameBytes, standsAt_append, List.length_append, hdrBytes_length, beBytes_length, hscalar,
    Nat.zero_add] at hwhole
  obtain ⟨⟨⟨⟨⟨-, hanalog⟩, hdigital⟩, hrate⟩, hscalars⟩, hstation, hnames⟩ := hwhole
  refine ⟨?_, hanalog, hdigital, hrate, hscalars, hstation, hnames⟩
  simp only [img, cfgFrameBytes, List.length_append, hdrBytes_length, beBytes_length, hscalar]
  omega

/-- What CFG decodes where a fixed block, scalars and names stand (R190 to R197). -/
theorem decodeConfig_of_standsAt {img station : List Byte} {h : Header} {scalar : PerChannel F32}
    {names : PerChannel (List Byte)} (hanalog : StandsAt img 16 (beBytes 2 (6#16).toNat))
    (hdigital : StandsAt img 18 (beBytes 2 (0#16).toNat)) (hrate : StandsAt img 20 (beBytes 4 (3000#32).toNat))
    (hscalars : StandsAt img 24 (scalar.toList.flatMap fun v => beBytes 4 v.toNat))
    (hstation : StandsAt img 48 (nameBytes station))
    (hnames : StandsAt img (48 + (nameBytes station).length) (names.toList.flatMap nameBytes))
    (hs : station.length ≤ 20 ∧ 0x00#8 ∉ station) (hn : ∀ c, (names.get c).length ≤ 20 ∧ 0x00#8 ∉ names.get c)
    (hend : 48 + (nameBytes station).length + (names.toList.flatMap nameBytes).length ≤ h.frameLength)
    (hfl : h.frameLength ≤ img.length) :
    decodeConfig img 0 h = .ok
      { header := h
        analogCount := 6#16
        digitalCount := 0#16
        sampleRate := 3000#32
        scalar := scalar
        stationName := station
        analogName := names
        cell := makeCell scalar names } := by
  have hfl' : 0 + h.frameLength ≤ img.length := by omega
  have ranalog : readU16 img 0 h.frameLength (0 + 16) = .ok 6#16 :=
    memRead_map_of_standsAt rfl hanalog (by omega) (by omega) hfl'
  have rdigital : readU16 img 0 h.frameLength (0 + 18) = .ok 0#16 :=
    memRead_map_of_standsAt rfl hdigital (by omega) (by omega) hfl'
  have rrate : readI32 img 0 h.frameLength (0 + 20) = .ok 3000#32 :=
    memRead_map_of_standsAt rfl hrate (by omega) (by omega) hfl'
  have rscalars : readPerChannel (readScalar img 0 h.frameLength) = .ok scalar := by
    refine readPerChannel_eq_ok fun c => ?_
    have hc := channel_index_le c
    exact memRead_map_of_standsAt rfl (standsAt_channel (fun _ => beBytes_length 4 _) hscalars c)
      (by omega) (by omega) hfl'
  have rstation := readName_of_standsAt (p := 0) (fl := h.frameLength) hstation hs (by omega) (by omega) hfl'
  have rnames := readNames_of_standsAt (p := 0) (fl := h.frameLength) hnames hn (by omega) (by omega) hfl'
  simp only [decodeConfig, ranalog, rdigital, rrate, rscalars, Nat.zero_add 48, rstation, rnames, except_ok_bind]
  rfl

/-- Settles O21: the frame's parts stand where CFG reads them. -/
theorem configFrameFieldsRoundTrip : Obligations.ConfigFrameFieldsRoundTrip := by
  intro ch cnt scalar station names h s hlen h0 hnames hfl
  obtain ⟨himg, hanalog, hdigital, hrate, hscalars, hstation, htail⟩ :=
    standsAt_cfgFrameBytes ch cnt scalar station names
  have hdec := decodeConfig_of_standsAt hanalog hdigital hrate hscalars hstation htail ⟨hlen, h0⟩ hnames
    (by rw [hfl, himg]) hfl.le
  refine ⟨_, ?_, ?_, ?_, ?_, congrArg (finish s) (configFrame_ok.mpr ⟨_, hdec, rfl⟩)⟩ <;> rfl

end Sys2Proof.Machine
end

section
/-! PROOF. The channel ID and the packet count steer nothing (30_encoding R118, 42_header R184): DATA and CFG read the
declared length of their header and copy the rest of it, so that runs under two headers of one length go in step. -/

namespace Sys2Proof.Machine

/-- The frame under another header. -/
def dataFrameWithHeader (h : Header) (f : DataFrame) : DataFrame := { f with header := h }

/-- The configuration under another header. -/
def configWithHeader (h : Header) (f : ConfigurationFrame) : ConfigurationFrame := { f with header := h }

/-- The state with another retained frame and other events: what the expansion loop writes and never reads. -/
def State.withRetained (s : State) (last : Option DataFrame) (out : List Event) : State :=
  { s with fr := { s.fr with lastFrame := last }, out := out }

theorem State.withRetained_self (s : State) : s.withRetained s.fr.lastFrame s.out = s := rfl

/-! One row. -/

section
variable (f : DataFrame) (h' : Header) (s : State) (last : Option DataFrame) (out : List Event)

theorem applyAnswer_withHeader (b : ParamBundle) (r : Option PhaseEstimate) :
    applyAnswer b r (dataFrameWithHeader h' f) (s.withRetained last out) =
      (dataFrameWithHeader h' (applyAnswer b r f s).1, (applyAnswer b r f s).2.withRetained last out) := by
  cases r with
  | some est => rfl
  | none =>
    have hcell : (s.withRetained last out).fr.lastEstCell = s.fr.lastEstCell := rfl
    cases hc : s.fr.lastEstCell with
    | none => simp only [applyAnswer, hcell, hc]
    | some cell =>
      simp only [applyAnswer, hcell, hc]
      split <;> rfl

/-- APPLY reads neither the header of its frame nor what the loop has retained (R218). -/
theorem applyEstimate_withHeader :
    applyEstimate (dataFrameWithHeader h' f) (s.withRetained last out) =
      (dataFrameWithHeader h' (applyEstimate f s).1, (applyEstimate f s).2.withRetained last out) := by
  have hparams : (s.withRetained last out).fr.params = s.fr.params := rfl
  cases hp : s.fr.params with
  | none => simp only [applyEstimate, hparams, hp]
  | some b =>
    have hskip : applySkips (some b) (dataFrameWithHeader h' f) = applySkips (some b) f := rfl
    simp only [applyEstimate, hparams, hp, hskip]
    split
    · rfl
    · exact applyAnswer_withHeader f h' (s.setEst _) last out b _

theorem applyAnswer_header (b : ParamBundle) (r : Option PhaseEstimate) :
    (applyAnswer b r f s).1.header = f.header := by
  unfold applyAnswer
  split
  · rfl
  · split
    · dsimp only
      split <;> rfl
    · rfl

/-- APPLY keeps the header of its frame (R218). -/
theorem applyEstimate_header : (applyEstimate f s).1.header = f.header := by
  rcases applyEstimate_cases f s with h | ⟨b, -, -, h⟩ <;> rw [h]
  exact applyAnswer_header f _ b _

end

/-- The frame that one pass of the expansion loop retains and emits (R217). -/
def rowFrame (h : Header) (ts0 : I64) (i : Nat) (raw : PerChannel I32) (s : State) : DataFrame :=
  (applyEstimate (newFrame s.haveCfg h i (rowTimestamp ts0 i) raw) s).1

section
variable (h h' : Header) (ts0 : I64) (i : Nat) (raw : PerChannel I32) (s : State)

theorem rowFrame_header : (rowFrame h ts0 i raw s).header = h := applyEstimate_header _ s

theorem sampleFrame_out :
    (sampleFrame h ts0 i raw s).out = s.out ++ [.receivedDataFrame (rowFrame h ts0 i raw s)] := by
  rw [sampleFrame_frame]
  rfl

theorem sampleFrame_lastFrame : (sampleFrame h ts0 i raw s).fr.lastFrame = some (rowFrame h ts0 i raw s) := rfl

/-- Under another header one pass does the same, and retains and emits its frame under that header. -/
theorem sampleFrame_withHeader (last : Option DataFrame) (out : List Event) :
    sampleFrame h' ts0 i raw (s.withRetained last out) =
      (sampleFrame h ts0 i raw s).withRetained (some (dataFrameWithHeader h' (rowFrame h ts0 i raw s)))
        (out ++ [.receivedDataFrame (dataFrameWithHeader h' (rowFrame h ts0 i raw s))]) := by
  have happly := applyEstimate_withHeader (newFrame s.haveCfg h i (rowTimestamp ts0 i) raw) h' s last out
  have hnew : newFrame (s.withRetained last out).haveCfg h' i (rowTimestamp ts0 i) raw =
      dataFrameWithHeader h' (newFrame s.haveCfg h i (rowTimestamp ts0 i) raw) := rfl
  unfold sampleFrame
  rw [hnew, happly]
  rfl

end

/-! The loop over the rows, and the two frames. -/

/-- Two runs of the expansion loop under headers of one length go in step: both raise the same exception, or the second
leaves what the first does but for the header of the frames retained and emitted. -/
theorem expandRows_withHeader {img : List Byte} {p : Nat} {h h' : Header} {ts0 : I64}
    (hlen : h'.frameLength = h.frameLength) (rows : List Nat) (s : State) (last : Option DataFrame)
    (out : List Event) :
    (∃ r, expandRows img p h ts0 rows s = .error r ∧
      expandRows img p h' ts0 rows (s.withRetained last out) = .error r) ∨
    ∃ (t : State) (fs : List DataFrame), fs.length = rows.length ∧ (∀ f ∈ fs, f.header = h) ∧
      expandRows img p h ts0 rows s = .ok t ∧ t.out = s.out ++ fs.map .receivedDataFrame ∧
      t.fr.lastFrame = fs.getLast?.or s.fr.lastFrame ∧
      expandRows img p h' ts0 rows (s.withRetained last out) = .ok (t.withRetained
        ((fs.map (dataFrameWithHeader h')).getLast?.or last)
        (out ++ (fs.map (dataFrameWithHeader h')).map .receivedDataFrame)) := by
  induction rows generalizing s last out with
  | nil => exact .inr ⟨s, [], rfl, by simp, rfl, by simp, by simp, by simp [expandRows]⟩
  | cons i rest ih =>
    cases hrow : readRow img p h.frameLength i with
    | error r =>
      refine .inl ⟨r, ?_, ?_⟩
      · rw [expandRows, hrow]
        rfl
      · rw [expandRows, hlen, hrow]
        rfl
    | ok raw =>
      have hfirst : expandRows img p h ts0 (i :: rest) s =
          expandRows img p h ts0 rest (sampleFrame h ts0 i raw s) := by
        rw [expandRows, hrow, except_ok_bind]
      have hsecond : expandRows img p h' ts0 (i :: rest) (s.withRetained last out) =
          expandRows img p h' ts0 rest ((sampleFrame h ts0 i raw s).withRetained
            (some (dataFrameWithHeader h' (rowFrame h ts0 i raw s)))
            (out ++ [.receivedDataFrame (dataFrameWithHeader h' (rowFrame h ts0 i raw s))])) := by
        rw [expandRows, hlen, hrow, except_ok_bind, sampleFrame_withHeader h]
      rw [hfirst, hsecond]
      rcases ih (sampleFrame h ts0 i raw s) _ _ with hraise | ⟨t, fs, hcount, hhdr, ht, hout, hlast, ht'⟩
      · exact .inl hraise
      · refine .inr ⟨t, rowFrame h ts0 i raw s :: fs, ?_, ?_, ht, ?_, ?_, ?_⟩
        · rw [List.length_cons, List.length_cons, hcount]
        · exact List.forall_mem_cons.mpr ⟨rowFrame_header h ts0 i raw s, hhdr⟩
        · rw [hout, sampleFrame_out, List.append_assoc]
          rfl
        · rw [hlast, sampleFrame_lastFrame, List.getLast?_cons, Option.or_some, Option.some_or]
        · rw [ht', List.map_cons, List.getLast?_cons, Option.or_some, Option.some_or, List.append_assoc]
          rfl

theorem getLast?_or_of_ne_nil {α : Type} {l : List α} (hne : l ≠ []) (x : Option α) :
    l.getLast?.or x = l.getLast? := by
  rw [List.getLast?_eq_some_getLast hne, Option.some_or]

/-- Two runs of DATA under headers of one length go in step. -/
theorem dataFrame_withHeader (img : List Byte) (p : Nat) {h h' : Header} (hlen : h'.frameLength = h.frameLength)
    (s : State) :
    (∃ r, dataFrame img p h s = .error r ∧ dataFrame img p h' s = .error r) ∨
    ∃ (t : State) (fs : List DataFrame), (∀ f ∈ fs, f.header = h) ∧ dataFrame img p h s = .ok t ∧
      t.out = s.out ++ fs.map .receivedDataFrame ∧ t.fr.lastFrame = fs.getLast? ∧
      dataFrame img p h' s = .ok (t.withRetained (fs.map (dataFrameWithHeader h')).getLast?
        (s.out ++ (fs.map (dataFrameWithHeader h')).map .receivedDataFrame)) := by
  unfold dataFrame
  rw [hlen]
  cases hreq : require (decide (dataFrameLen ≤ h.frameLength)) ⟨.insufficientLength, p⟩ with
  | error r => exact .inl ⟨r, rfl, rfl⟩
  | ok u =>
    cases hts : readI64 img p h.frameLength (p + 16) with
    | error r => exact .inl ⟨r, rfl, rfl⟩
    | ok ts0 =>
      simp only [except_ok_bind]
      rcases expandRows_withHeader hlen (List.range framesPerPacket) s s.fr.lastFrame s.out with
        hraise | ⟨t, fs, hcount, hhdr, ht, hout, hlast, ht'⟩
      · exact .inl hraise
      · have hne : fs ≠ [] := List.ne_nil_of_length_eq_add_one (hcount.trans List.length_range)
        rw [State.withRetained_self, getLast?_or_of_ne_nil (mt List.map_eq_nil_iff.mp hne)] at ht'
        rw [getLast?_or_of_ne_nil hne] at hlast
        exact .inr ⟨t, fs, hhdr, ht, hout, hlast, ht'⟩

/-- CFG decodes the same fields under another header of the same length, and copies that header (R190). -/
theorem decodeConfig_withHeader (img : List Byte) (p : Nat) {h h' : Header} (hlen : h'.frameLength = h.frameLength) :
    decodeConfig img p h' = configWithHeader h' <$> decodeConfig img p h := by
  simp only [decodeConfig, hlen, map_bind, map_pure, configWithHeader]

theorem decodeConfig_header {img : List Byte} {p : Nat} {h : Header} {f : ConfigurationFrame}
    (hx : decodeConfig img p h = .ok f) : f.header = h := by
  have hself := decodeConfig_withHeader img p (rfl : h.frameLength = h.frameLength)
  rw [hx] at hself
  have hf : f = configWithHeader h f := Except.ok.inj hself
  exact congrArg ConfigurationFrame.header hf

/-- Settles O44: under the two headers DATA and CFG raise alike, or succeed alike but for the header they copy. -/
theorem channelIdAndCountSteerNothing : Obligations.ChannelIdAndCountSteerNothing := by
  intro img p h ch cnt s t t' h'
  have hlen : h'.frameLength = h.frameLength := rfl
  constructor
  · intro ht ht'
    rcases dataFrame_withHeader img p hlen s with ⟨r, hx, hx'⟩ | ⟨u, fs, hhdr, hx, hout, hlast, hx'⟩
    · simp only [exec, execData, hx, hx'] at ht ht'
      cases ht
      cases ht'
      exact .inl ⟨r.exc, r.info, rfl, rfl⟩
    · simp only [exec, execData, hx, hx'] at ht ht'
      cases ht
      cases ht'
      exact .inr ⟨fs, hhdr, hout, hlast, rfl⟩
  · intro ht ht'
    have hdec' := decodeConfig_withHeader img p hlen
    cases hdec : decodeConfig img p h with
    | error r =>
      rw [hdec] at hdec'
      simp only [exec, execCfg, configFrame, hdec, hdec'] at ht ht'
      cases ht
      cases ht'
      exact .inl ⟨r.exc, r.info, rfl, rfl⟩
    | ok f =>
      rw [hdec] at hdec'
      simp only [exec, execCfg, configFrame, hdec, hdec'] at ht ht'
      cases ht
      cases ht'
      exact .inr ⟨f, decodeConfig_header hdec, rfl, rfl, rfl⟩

end Sys2Proof.Machine
end

section
/-! PROOF. The host commands (40_host_commands R140 to R148): which code selects which, what each answers, that PARSE
always ends with Ok (41_framer R169), and that an error changes nothing (60_exceptions R313). -/

namespace Sys2Proof.Machine

/-! The command each code selects (R121, R148). -/

section
variable {c : Command}

theorem decodeCommand_reset (h : c.code = 0x01#8) : decodeCommand c = .ok .reset := by
  rw [decodeCommand, h]
  rfl

theorem decodeCommand_start (h : c.code = 0x02#8) : decodeCommand c = .ok .start := by
  rw [decodeCommand, h]
  rfl

theorem decodeCommand_loadparam (h : c.code = 0x03#8) : decodeCommand c = .ok (.loadparam c.bundle) := by
  rw [decodeCommand, h]
  rfl

theorem decodeCommand_parse (h : c.code = 0x04#8) : decodeCommand c = .ok (.parse c.bytes) := by
  rw [decodeCommand, h]
  rfl

theorem decodeCommand_estreset (h : c.code = 0x05#8) : decodeCommand c = .ok .estreset := by
  rw [decodeCommand, h]
  rfl

theorem decodeCommand_chkcalc (h : c.code = 0x06#8) : decodeCommand c = .ok .chkcalc := by
  rw [decodeCommand, h]
  rfl

theorem decodeCommand_setfmt (h : c.code = 0x07#8) : decodeCommand c = .ok (.setfmt c.setting) := by
  rw [decodeCommand, h]
  rfl

/-- A code outside 0x01 to 0x07 is no arm of the decoder. -/
theorem decodeCommand_reserved (h : c.code = 0x00#8 ∨ 0x08 ≤ c.code.toNat) :
    decodeCommand c = .error (.reservedCommand c.code) := by
  have hout : c.code.toNat = 0 ∨ 8 ≤ c.code.toNat := h.imp_left (congrArg BitVec.toNat)
  unfold decodeCommand
  split
  case h_8 => rfl
  all_goals omega

end

/-- Every host command is the one its encoding selects (R121). -/
theorem exists_decodeCommand_of_hostCommand {i : Instr} (hkind : i.kind = .hostCommand) :
    ∃ c, decodeCommand c = .ok i := by
  cases i with
  | reset => exact ⟨Command.ofCode 0x01, rfl⟩
  | start => exact ⟨Command.ofCode 0x02, rfl⟩
  | loadparam b => exact ⟨{ Command.ofCode 0x03 with bundle := b }, rfl⟩
  | parse buf => exact ⟨{ Command.ofCode 0x04 with bytes := buf }, rfl⟩
  | estreset => exact ⟨Command.ofCode 0x05, rfl⟩
  | chkcalc => exact ⟨Command.ofCode 0x06, rfl⟩
  | setfmt f => exact ⟨{ Command.ofCode 0x07 with setting := f }, rfl⟩
  | _ => cases hkind

/-! The commands whose effect is the same in every state. -/

/-- Settles O1: RESET writes FR whole and the status. -/
theorem resetRestoresPowerOnFramer : Obligations.ResetRestoresPowerOnFramer :=
  ⟨fun _ => decodeCommand_reset, fun _ => rfl⟩

/-- Settles O2: START writes the two framing fields and the status. -/
theorem startKeepsAllButFraming : Obligations.StartKeepsAllButFraming :=
  ⟨fun _ => decodeCommand_start, fun _ => rfl⟩

/-- Settles O6: CHKCALC is a command-time error. -/
theorem chkcalcAlwaysUnsupported : Obligations.ChkcalcAlwaysUnsupported :=
  ⟨fun _ => decodeCommand_chkcalc, fun s => congrArg Host.Outcome.next (commandError_eq .unsupportedOperation s)⟩

/-! LOADPARAM (R143). -/

theorem samplesPerCycle_eq (f : NominalFrequency) : samplesPerCycle f = if f = .hz60 then 50 else 60 := by
  cases f <;> rfl

/-- The check the block makes is the legality the rules state (R32, R143). -/
theorem validBundle_iff {w : Option Nat} {b : ParamBundle} : validBundle w b = true ↔ LegalBundle w b := by
  cases w with
  | none => simp [validBundle, LegalBundle, alphaOk, and_assoc]
  | some k => simp [validBundle, LegalBundle, alphaOk, samplesPerCycle_eq, and_assoc]

section
variable {s : State} {b : ParamBundle}

theorem exec_loadparam_of_valid (h : validBundle s.impl.maxWindow b = true) :
    exec (.loadparam b) s = .next ((s.setParams (some b)).setStatus .ok) := by
  simp only [exec, execLoadparam, if_pos h]

theorem exec_loadparam_of_invalid (h : ¬validBundle s.impl.maxWindow b = true) :
    exec (.loadparam b) s = .next (commandError .invalidParameter s) := by
  simp only [exec, execLoadparam, if_neg h]

end

/-- Settles O3: the two answers of LOADPARAM are selected by legality. -/
theorem loadparamAcceptsExactlyLegalBundles : Obligations.LoadparamAcceptsExactlyLegalBundles :=
  ⟨fun _ => decodeCommand_loadparam, fun _ _ =>
    ⟨fun hlegal => exec_loadparam_of_valid (validBundle_iff.mpr hlegal),
      fun hillegal => exec_loadparam_of_invalid fun hvalid => hillegal (validBundle_iff.mp hvalid)⟩⟩

/-! ESTRESET (R145). -/

theorem exec_estreset_of_some {s : State} {e : Estimator} (h : s.fr.est = some e) :
    exec .estreset s = .next ((s.setEst (some (estReset e))).setStatus .ok) := by
  simp only [exec, execEstreset, h]

theorem exec_estreset_of_none {s : State} (h : s.fr.est = none) : exec .estreset s = .next (s.setStatus .ok) := by
  simp only [exec, execEstreset, h]

/-- Settles O5: EST.RESET of the estimator held, or the status alone. -/
theorem estresetClearsEstimatorOnly : Obligations.EstresetClearsEstimatorOnly :=
  ⟨fun _ => decodeCommand_estreset, fun _ => ⟨fun _ => exec_estreset_of_some, exec_estreset_of_none⟩⟩

/-! SETFMT (R147). -/

section
variable {f : FormatSetting}

theorem settingIsFixed_of_hardwired (h : f = .phasorDataFormat .fixedInteger ∨ f = .phasorCoordinateFormat .polar ∨
    f = .frequencyDataFormat .floatingPoint ∨ f = .analogDataFormat .floatingPoint) : settingIsFixed f = true := by
  obtain rfl | rfl | rfl | rfl := h <;> rfl

theorem settingIsFixed_of_other (h : f = .phasorDataFormat .floatingPoint ∨ f = .phasorCoordinateFormat .rectangular ∨
    f = .frequencyDataFormat .fixedInteger ∨ f = .analogDataFormat .fixedInteger) : settingIsFixed f = false := by
  obtain rfl | rfl | rfl | rfl := h <;> rfl

theorem exec_setfmt_of_fixed (s : State) (h : settingIsFixed f = true) :
    exec (.setfmt f) s = .next (s.setStatus .ok) := by
  simp only [exec, execSetfmt, h, if_true]

theorem exec_setfmt_of_not_fixed (s : State) (h : settingIsFixed f = false) :
    exec (.setfmt f) s = .next (commandError .unsupportedFormat s) := by
  simp only [exec, execSetfmt, h, Bool.false_eq_true, if_false]

end

/-- Settles O7: each of the eight settings is a hardwired one or another value of its field. -/
theorem setfmtAcceptsOnlyHardwiredFormats : Obligations.SetfmtAcceptsOnlyHardwiredFormats :=
  ⟨fun _ => decodeCommand_setfmt, fun _ s =>
    ⟨fun h => exec_setfmt_of_fixed s (settingIsFixed_of_hardwired h),
      fun h => exec_setfmt_of_not_fixed s (settingIsFixed_of_other h)⟩⟩

/-! Reserved codes (R148). -/

/-- With no parse image a code the decoder rejects is taken off the port and answered with an error. -/
theorem step_of_rejected {s : State} {c : Command} {rest : List Command} {x : DecodeError} (hparse : s.parse = none)
    (hprog : s.program = c :: rest) (hdec : decodeCommand c = .error x) :
    step s = .next (commandError .unsupportedOperation (s.setProgram rest)) := by
  simp only [step, hparse, takeCommand_of_cons hprog, hdec, execReserved]

/-- Settles O10: the decoder rejects a reserved code. -/
theorem reservedCodeIsUnsupported : Obligations.ReservedCodeIsUnsupported :=
  fun _ _ _ hparse hprog hcode => step_of_rejected hparse hprog (decodeCommand_reserved hcode)

/-! PARSE ends (R169): no pass leaves the cursor where it was, and the loop has a pass for every byte and one more. -/

theorem parseLoop_of_parse_none (fuel : Nat) {s : State} (h : s.parse = none) : parseLoop fuel s = s := by
  cases fuel with
  | zero => rfl
  | succ n => simp only [parseLoop, h]

theorem parseLoop_succ (fuel : Nat) {s : State} {ctx : ParseCtx} (h : s.parse = some ctx) :
    parseLoop (fuel + 1) s = parseLoop fuel (parsePass ctx s) := by
  simp only [parseLoop, h]

/-- With more passes allowed than bytes are left, the loop ends the command with status Ok. -/
theorem parseLoop_completes {fuel : Nat} {s : State} {ctx : ParseCtx} (hparse : s.parse = some ctx)
    (hfuel : ctx.img.length - ctx.cur < fuel) :
    (parseLoop fuel s).parse = none ∧ (parseLoop fuel s).status = some .ok := by
  induction fuel generalizing s ctx with
  | zero => omega
  | succ n ih =>
    rw [parseLoop_succ n hparse]
    rcases parsePass_progress ctx s with ⟨hended, hok⟩ | ⟨cur, hnext, hlt, hle⟩
    · rw [parseLoop_of_parse_none n hended]
      exact ⟨hended, hok⟩
    · exact ih hnext (show ctx.img.length - cur < n by omega)

/-- The state PARSE of `buf` leaves is one of a PARSE that has ended with Ok. -/
theorem parse_completes (buf : List Byte) (s : State) :
    (parseLoop ((s.fr.residual ++ buf).length + 1) (beginParse buf s)).parse = none ∧
      (parseLoop ((s.fr.residual ++ buf).length + 1) (beginParse buf s)).status = some .ok :=
  parseLoop_completes (ctx := ⟨s.fr.residual ++ buf, 0⟩) rfl (Nat.lt_succ_self _)

/-! What PARSE never writes. -/

/-- The bundle, the program and the result register are as they were in `s`. -/
structure State.ParseKeeps (s t : State) : Prop where
  params : t.fr.params = s.fr.params
  program : t.program = s.program
  result : t.result = s.result

theorem State.ParseKeeps.trans {s t u : State} (h : s.ParseKeeps t) (h' : t.ParseKeeps u) : s.ParseKeeps u :=
  ⟨h'.params.trans h.params, h'.program.trans h.program, h'.result.trans h.result⟩

theorem parseException_keeps (ctx : ParseCtx) (r : Raise) (s : State) : s.ParseKeeps (parseException ctx r s) := by
  unfold parseException resumeAfterException
  split
  · exact ⟨rfl, rfl, rfl⟩
  · exact ⟨rfl, rfl, rfl⟩

theorem parseFrame_keeps (ctx : ParseCtx) (s : State) : s.ParseKeeps (parseFrame ctx s) := by
  rcases parseFrame_cases ctx s with ⟨r, h⟩ | ⟨_, -, ⟨-, h⟩ | ⟨-, t, hbody, h⟩⟩ <;> rw [h]
  · exact parseException_keeps ctx r s
  · exact ⟨rfl, rfl, rfl⟩
  · obtain ⟨-, -, hparams, -, -, hprogram, hresult, -⟩ := frameBody_ok hbody
    exact ⟨hparams, hprogram, hresult⟩

theorem parsePass_keeps (ctx : ParseCtx) (s : State) : s.ParseKeeps (parsePass ctx s) := by
  rcases parsePass_cases ctx s with h | ⟨-, -, h⟩ | ⟨p, -, -, h⟩ <;> rw [h]
  · exact ⟨rfl, rfl, rfl⟩
  · exact parseFrame_keeps ctx s
  · refine State.ParseKeeps.trans ?_ (parseFrame_keeps _ _)
    exact ⟨rfl, rfl, rfl⟩

/-- Settles O4: the loop runs out of bytes before it runs out of passes, and every pass appends events and leaves the
rest alone. -/
theorem parseRunsToCompletion : Obligations.ParseRunsToCompletion := by
  refine ⟨fun _ => decodeCommand_parse, fun buf s => ⟨_, rfl, ?_⟩⟩
  obtain ⟨hended, hok⟩ := parse_completes buf s
  have hkeeps : s.ParseKeeps (parseLoop ((s.fr.residual ++ buf).length + 1) (beginParse buf s)) :=
    parseLoop_preserves (fun ctx u _ hu => hu.trans (parsePass_keeps ctx u)) _ ⟨rfl, rfl, rfl⟩
  have hcont : s.Continues (parseLoop ((s.fr.residual ++ buf).length + 1) (beginParse buf s)) :=
    parseLoop_preserves (fun ctx u _ hu => hu.trans (parsePass_continues ctx u)) _ .of_eq
  exact ⟨hended, hok, hkeeps.params, hkeeps.program, hcont.impl, hkeeps.result, hcont.out⟩

/-! Command-time errors (R140, R313). -/

/-- A host command succeeds, or writes the status and nothing else. -/
theorem CommandEffect.status_cases {c : Command} {s t : State} (h : CommandEffect c s t) :
    t.status = some .ok ∨ ∃ v, t = s.setStatus v := by
  cases h with
  | parse buf => exact .inl (parse_completes buf s).2
  | status v => exact .inr ⟨v, rfl⟩
  | reset => exact .inl rfl
  | start => exact .inl rfl
  | loadparam => exact .inl rfl
  | estreset => exact .inl rfl

/-- Settles O8: a command that answers an error has not succeeded, so it wrote the status only. -/
theorem commandErrorChangesNoState : Obligations.CommandErrorChangesNoState := by
  intro i s t x hkind hexec herror
  obtain ⟨c, hdec⟩ := exists_decodeCommand_of_hostCommand hkind
  rcases (exec_commandEffect hdec hexec).status_cases with hok | ⟨v, rfl⟩
  · cases hok.symm.trans herror
  · cases herror
    rfl

end Sys2Proof.Machine
end

section
/-! PROOF. Nothing stops the machine (93_implementation_defined), PARSE is the iteration of passes (41_framer R161,
R169), and what SCAN (R162) and one pass do, by what stands at the cursor (R163 to R168). -/

namespace Sys2Proof.Machine

/-! Nothing stops the machine. -/

theorem exists_finish_next (s : State) (r : Except Raise State) : ∃ t, finish s r = .next t := by
  cases r with
  | ok t => exact ⟨t, rfl⟩
  | error x => exact ⟨takeException x s, rfl⟩

theorem exists_finishValue_next {α : Type} (s : State) (wrap : α → OpResult) (r : Except Raise α) :
    ∃ t, finishValue s wrap r = .next t := by
  cases r with
  | ok v => exact ⟨s.setResult (wrap v), rfl⟩
  | error x => exact ⟨takeException x s, rfl⟩

/-- EST.NEW called directly answers an estimator or a command-time error (R241, R313). -/
theorem exists_execEstNew_next (b : ParamBundle) (s : State) : ∃ t, execEstNew b s = .next t := by
  unfold execEstNew
  split
  · exact ⟨_, rfl⟩
  · exact ⟨_, rfl⟩

/-- Every operation answers a next state: a command its status, a decoding operation its effect or the exception
entry, a part of the estimator its estimator. -/
theorem exists_exec_next (i : Instr) (s : State) : ∃ t, exec i s = .next t := by
  cases i with
  | loadparam b =>
    by_cases hb : validBundle s.impl.maxWindow b = true
    · exact ⟨_, exec_loadparam_of_valid hb⟩
    · exact ⟨_, exec_loadparam_of_invalid hb⟩
  | estreset =>
    cases he : s.fr.est with
    | none => exact ⟨_, exec_estreset_of_none he⟩
    | some e => exact ⟨_, exec_estreset_of_some he⟩
  | setfmt f =>
    cases hf : settingIsFixed f with
    | true => exact ⟨_, exec_setfmt_of_fixed s hf⟩
    | false => exact ⟨_, exec_setfmt_of_not_fixed s hf⟩
  | data img p h => exact exists_finish_next s (dataFrame img p h s)
  | cfg img p h => exact exists_finish_next s (configFrame img p h s)
  | hdr img p avail => exact exists_finishValue_next s .header (header s.impl.maxFrameBytes img p avail)
  | name img p fl a => exact exists_finishValue_next s (fun r => .name r.1 r.2) (readName img p fl a)
  | row img p i => exact exists_finishValue_next s .raw (readRow img p dataFrameLen i)
  | estNew b => exact exists_execEstNew_next b s
  | _ => exact ⟨_, rfl⟩

/-- While a PARSE is in progress the step is one pass of its dispatch loop. -/
theorem step_of_parse {s : State} {ctx : ParseCtx} (hparse : s.parse = some ctx) :
    step s = .next (parsePass ctx s) := by
  simp only [step, hparse]

theorem exists_step_next (s : State) : ∃ t, step s = .next t := by
  cases hparse : s.parse with
  | some ctx => exact ⟨_, step_of_parse hparse⟩
  | none =>
    cases hprog : s.program with
    | nil => exact ⟨s, step_of_idle hparse hprog⟩
    | cons c rest =>
      cases hdec : decodeCommand c with
      | ok i =>
        rw [step_of_command hparse hprog hdec]
        exact exists_exec_next i _
      | error x => exact ⟨_, step_of_rejected hparse hprog hdec⟩

/-- Settles O12: a step is a pass, the idle step, a rejected code or an operation, and no operation stops. -/
theorem noOperationStops : Obligations.NoOperationStops := ⟨exists_exec_next, exists_step_next⟩

/-! PARSE as iterated passes. -/

/-- A run whose first step answers a next state goes on from there. -/
theorem core_run_succ {M : Host.Core} {s t : M.State} (k : Nat) (h : M.step s = .next t) :
    M.run (k + 1) s = M.run k t := by
  simp only [Host.Core.run, h]

/-- What `fuel` passes of the loop reach, at most `fuel` steps of the machine reach. -/
theorem exists_run_eq_parseLoop (fuel : Nat) (s : State) :
    ∃ k, k ≤ fuel ∧ Host.Core.run Sys2Proof.core k s = .next (parseLoop fuel s) := by
  induction fuel generalizing s with
  | zero => exact ⟨0, le_rfl, rfl⟩
  | succ n ih =>
    cases hparse : s.parse with
    | none =>
      rw [parseLoop_of_parse_none _ hparse]
      exact ⟨0, Nat.zero_le _, rfl⟩
    | some ctx =>
      obtain ⟨k, hk, hrun⟩ := ih (parsePass ctx s)
      refine ⟨k + 1, Nat.succ_le_succ hk, ?_⟩
      rw [core_run_succ (M := Sys2Proof.core) k (step_of_parse hparse), parseLoop_succ n hparse, hrun]

/-- Settles O13: the loaded parse image is the state `beginParse` leaves. -/
theorem parseIsIteratedPasses : Obligations.ParseIsIteratedPasses :=
  fun buf s => exists_run_eq_parseLoop ((s.fr.residual ++ buf).length + 1) (beginParse buf s)

/-! SCAN (R162). -/

/-- A sync pattern stands at `q` (R114). -/
def PatternAt (img : List Byte) (q : Nat) : Prop :=
  (img[q]? = some 0x00#8 ∨ img[q]? = some 0x01#8) ∧ img[q + 1]? = some 0x01#8

theorem patternAt_drop {img : List Byte} {a q : Nat} : PatternAt (img.drop a) q ↔ PatternAt img (a + q) := by
  simp only [PatternAt, List.getElem?_drop, Nat.add_assoc]

theorem isSyncPattern_iff {x y : Byte} {l : List Byte} : isSyncPattern x y = true ↔ PatternAt (x :: y :: l) 0 := by
  simp [isSyncPattern, PatternAt]

theorem PatternAt.lt_length {img : List Byte} {q : Nat} (h : PatternAt img q) : q + 1 < img.length :=
  (List.getElem?_eq_some_iff.mp h.2).1

theorem scanBytes_of_pattern {l : List Byte} (a : Nat) (h : PatternAt l 0) : scanBytes l a = some a := by
  match l with
  | [] | [_] => exact absurd h.lt_length (by simp)
  | x :: y :: rest => rw [scanBytes, if_pos (isSyncPattern_iff.mpr h)]

theorem scanBytes_of_not_pattern {x : Byte} {l : List Byte} (a : Nat) (h : ¬PatternAt (x :: l) 0) :
    scanBytes (x :: l) a = scanBytes l (a + 1) := by
  cases l with
  | nil => rfl
  | cons y rest => rw [scanBytes, if_neg fun hxy => h (isSyncPattern_iff.mp hxy)]

theorem scanBytes_eq_some_iff {l : List Byte} {a p : Nat} :
    scanBytes l a = some p ↔ ∃ k, p = a + k ∧ PatternAt l k ∧ ∀ q < k, ¬PatternAt l q := by
  induction l generalizing a with
  | nil => simp [scanBytes, PatternAt]
  | cons x l ih =>
    by_cases h : PatternAt (x :: l) 0
    · rw [scanBytes_of_pattern a h]
      constructor
      · rintro ⟨⟩
        exact ⟨0, rfl, h, fun q hq => absurd hq q.not_lt_zero⟩
      · rintro ⟨k, rfl, -, hmin⟩
        obtain rfl : k = 0 := by_contra fun hk => hmin 0 (Nat.pos_of_ne_zero hk) h
        rfl
    · rw [scanBytes_of_not_pattern a h, ih]
      constructor
      · rintro ⟨k, rfl, hk, hmin⟩
        refine ⟨k + 1, by omega, hk, fun q hq => ?_⟩
        cases q with
        | zero => exact h
        | succ q => exact hmin q (Nat.lt_of_succ_lt_succ hq)
      · rintro ⟨k, rfl, hk, hmin⟩
        cases k with
        | zero => exact absurd hk h
        | succ k => exact ⟨k, by omega, hk, fun q hq => hmin (q + 1) (Nat.succ_lt_succ hq)⟩

/-- SCAN finds the first pattern from an offset on. -/
theorem scan_eq_some_iff {img : List Byte} {start p : Nat} :
    scan img start = some p ↔ start ≤ p ∧ PatternAt img p ∧ ∀ q, start ≤ q → q < p → ¬PatternAt img q := by
  simp only [scan, scanBytes_eq_some_iff, patternAt_drop]
  constructor
  · rintro ⟨k, rfl, hk, hmin⟩
    refine ⟨Nat.le_add_right _ _, hk, fun q hq hlt => ?_⟩
    obtain ⟨j, rfl⟩ := Nat.exists_eq_add_of_le hq
    exact hmin j (by omega)
  · rintro ⟨hle, hp, hmin⟩
    obtain ⟨k, rfl⟩ := Nat.exists_eq_add_of_le hle
    exact ⟨k, rfl, hp, fun q hq => hmin (start + q) (Nat.le_add_right _ _) (by omega)⟩

/-- Where no pattern stands from an offset on, SCAN finds none. -/
theorem scan_eq_none_of {img : List Byte} {start : Nat} (h : ∀ q, start ≤ q → ¬PatternAt img q) :
    scan img start = none :=
  Option.eq_none_iff_forall_ne_some.mpr fun p hp =>
    have ⟨hle, hpattern, _⟩ := scan_eq_some_iff.mp hp
    h p hle hpattern

/-- Settles O22: the result is `scan`, which finds the first pattern. -/
theorem scanFindsLeastPattern : Obligations.ScanFindsLeastPattern :=
  fun img start _ => ⟨scan img start, rfl, fun _ => scan_eq_some_iff.trans (and_congr_right fun _ => and_assoc)⟩

/-! One pass of the dispatch loop, by what stands at the cursor. -/

section
variable {s : State} {ctx : ParseCtx}

theorem parsePass_of_synchronized (hcur : ctx.cur < ctx.img.length) (hsync : s.fr.sync = .synchronized) :
    parsePass ctx s = parseFrame ctx s := by
  simp only [parsePass, if_neg (not_le.mpr hcur), hsync]

theorem parsePass_of_end (hcur : ctx.img.length ≤ ctx.cur) : parsePass ctx s = endParse s := by
  simp only [parsePass, if_pos hcur]

theorem parsePass_of_scan_none (hsync : s.fr.sync = .unsynchronized) (hscan : scan ctx.img ctx.cur = none) :
    parsePass ctx s = endParse s := by
  simp only [parsePass, hsync, hscan, ite_self]

theorem parsePass_of_scan_some {p : Nat} (hsync : s.fr.sync = .unsynchronized) (hscan : scan ctx.img ctx.cur = some p) :
    parsePass ctx s =
      parseFrame ⟨ctx.img, p⟩ ((s.setSync .synchronized).setParse (some ⟨ctx.img, p⟩)) := by
  obtain ⟨hle, hlt⟩ := scan_bounds hscan
  have hcur : ¬ctx.img.length ≤ ctx.cur := by omega
  simp only [parsePass, if_neg hcur, hsync, hscan]

theorem parseFrame_of_header_error {r : Raise}
    (hh : header s.impl.maxFrameBytes ctx.img ctx.cur (ctx.img.length - ctx.cur) = .error r) :
    parseFrame ctx s = parseException ctx r s := by
  simp only [parseFrame, hh]

variable {h : Header} (hh : header s.impl.maxFrameBytes ctx.img ctx.cur (ctx.img.length - ctx.cur) = .ok h)
include hh

theorem parseFrame_of_short (hshort : ctx.img.length - ctx.cur < h.frameLength) :
    parseFrame ctx s = endParse (s.setResidual (ctx.img.drop ctx.cur)) := by
  simp only [parseFrame, hh, if_pos hshort]

theorem parseFrame_of_body_ok {t : State} (hfit : h.frameLength ≤ ctx.img.length - ctx.cur)
    (hbody : frameBody ctx h s = .ok t) :
    parseFrame ctx s = t.setParse (some ⟨ctx.img, ctx.cur + h.frameLength⟩) := by
  simp only [parseFrame, hh, if_neg (not_lt.mpr hfit), hbody]

theorem parseFrame_of_body_error {r : Raise} (hfit : h.frameLength ≤ ctx.img.length - ctx.cur)
    (hbody : frameBody ctx h s = .error r) : parseFrame ctx s = parseException ctx r s := by
  simp only [parseFrame, hh, if_neg (not_lt.mpr hfit), hbody]

theorem cursor_lt_of_header_ok : ctx.cur < ctx.img.length := by
  obtain ⟨_, hfit, -⟩ := header_ok hh
  omega

end

theorem parseException_of_discard {s : State} (ctx : ParseCtx) (r : Raise)
    (hpolicy : s.impl.resyncPolicy = .discardBuffer) : parseException ctx r s = endParse (takeException r s) := by
  have himpl : (takeException r s).impl = s.impl := rfl
  simp only [parseException, resumeAfterException, himpl, hpolicy, endParse]

theorem parseException_of_rescan {s : State} (ctx : ParseCtx) (r : Raise)
    (hpolicy : s.impl.resyncPolicy = .rescanFromNextByte) :
    parseException ctx r s = (takeException r s).setParse (some ⟨ctx.img, ctx.cur + 1⟩) := by
  have himpl : (takeException r s).impl = s.impl := rfl
  simp only [parseException, resumeAfterException, himpl, hpolicy]

/-- Settles O28: a header error is the exception path, and the raise carries the cursor. -/
theorem headerErrorEntersException : Obligations.HeaderErrorEntersException := by
  intro s ctx ⟨x, info⟩ hparse hsync hcur hh
  obtain rfl : info = ctx.cur := header_error_info hh
  rw [step_of_parse hparse, parsePass_of_synchronized hcur hsync, parseFrame_of_header_error hh]
  constructor
  · intro hpolicy
    rw [parseException_of_discard ctx _ hpolicy]
    rfl
  · intro hpolicy
    rw [parseException_of_rescan ctx _ hpolicy]
    rfl

/-- Settles O26: the pass does what SCAN from the cursor tells it to. -/
theorem unsynchronizedStepScans : Obligations.UnsynchronizedStepScans := by
  intro s ctx pattern hparse hsync
  constructor
  · intro hnone
    rw [step_of_parse hparse, parsePass_of_scan_none hsync (scan_eq_none_of hnone)]
    rfl
  · intro p hle hp hmin
    have hscan : scan ctx.img ctx.cur = some p := scan_eq_some_iff.mpr ⟨hle, hp, hmin⟩
    have hlt : p < ctx.img.length := Nat.lt_of_succ_lt (PatternAt.lt_length hp)
    rw [step_of_parse hparse, parsePass_of_scan_some hsync hscan, step_of_parse rfl,
      parsePass_of_synchronized hlt rfl]
    rfl

/-! The frame at the cursor, as the decoder and as the loop see it (R113, R165). -/

/-- The decoder reads a data or a configuration frame with the header that stands there. -/
theorem decodeFrame_cases {img : List Byte} {p : Nat} {i : Instr} (hdec : decodeFrame img p = .ok i) :
    i = .data img p (readHeader img p) ∨ i = .cfg img p (readHeader img p) := by
  unfold decodeFrame at hdec
  split_ifs at hdec
  · cases hdec
    exact .inl rfl
  · cases hdec
    exact .inr rfl

/-- The header of a well-formed wire frame is one HDR accepts, and the image holds as many bytes as it declares. -/
theorem header_of_frameOperandsOk {t : FrameType} {img : List Byte} {p : Nat} {h : Header} {m : Option Nat}
    (hok : frameOperandsOk t img p h = true) (hmax : ∀ k, m = some k → h.frameLength ≤ k) :
    header m img p (img.length - p) = .ok h ∧ h.frameLength ≤ img.length - p := by
  obtain ⟨-, hfit16, htype, hver, rfl⟩ := frameOperandsOk_image hok
  obtain ⟨⟨-, hmin, -⟩, -, hfit, -⟩ := frameOperandsOk_iff.mp hok
  refine ⟨header_eq_ok (by omega) hfit16 hver ?_ hmin hmax, by omega⟩
  cases t with
  | data => exact .inl htype
  | configuration => exact .inr htype

/-- A well-formed wire frame is the frame body of the loop, its exception taken (R165, R310). -/
theorem decodeFrame_wellFormed {img : List Byte} {p : Nat} {i : Instr} {m : Option Nat}
    (hdec : decodeFrame img p = .ok i) (hwf : i.wellFormed = true)
    (hmax : ∀ k, m = some k → (readHeader img p).frameLength ≤ k) :
    header m img p (img.length - p) = .ok (readHeader img p) ∧
      (readHeader img p).frameLength ≤ img.length - p ∧
      ∀ s, exec i s = finish s (frameBody ⟨img, p⟩ (readHeader img p) s) := by
  rcases decodeFrame_cases hdec with rfl | rfl
  · obtain ⟨hh, hfit⟩ := header_of_frameOperandsOk hwf hmax
    obtain ⟨-, htype, -⟩ := frameOperandsOk_iff.mp hwf
    exact ⟨hh, hfit, fun s => by simp only [frameBody, htype, exec, execData]⟩
  · obtain ⟨hh, hfit⟩ := header_of_frameOperandsOk hwf hmax
    obtain ⟨-, htype, -⟩ := frameOperandsOk_iff.mp hwf
    exact ⟨hh, hfit, fun s => by simp only [frameBody, htype, exec, execCfg]⟩

/-- Settles O11: the body runs, or its exception is taken and the policy says what follows. -/
theorem stepRunsDecodedFrame : Obligations.StepRunsDecodedFrame := by
  intro s ctx i hparse hsync hdec hwf hmax
  obtain ⟨hh, hfit, hexec⟩ := decodeFrame_wellFormed hdec hwf hmax
  rw [hexec s, step_of_parse hparse, parsePass_of_synchronized (cursor_lt_of_header_ok hh) hsync]
  cases hbody : frameBody ctx (readHeader ctx.img ctx.cur) s with
  | ok t =>
    have htsync : t.fr.sync = .synchronized := (frameBody_ok hbody).1.trans hsync
    refine ⟨t, rfl, fun _ => ?_, fun hu => ?_, fun hu => ?_⟩
    · rw [parseFrame_of_body_ok hh hfit hbody]
      rfl
    · cases htsync.symm.trans hu
    · cases htsync.symm.trans hu
  | error r =>
    rw [parseFrame_of_body_error hh hfit hbody]
    refine ⟨takeException r s, rfl, fun hs => ?_, fun _ hpolicy => ?_, fun _ hpolicy => ?_⟩
    · cases hs
    · rw [parseException_of_discard ctx r hpolicy]
      rfl
    · rw [parseException_of_rescan ctx r hpolicy]
      rfl

end Sys2Proof.Machine
end

section
/-! PROOF. A whole PARSE (41_framer): the beginning of a frame is kept (R164), the status register steers nothing, so
that a frame cut in two buffers parses as the whole, and garbage before a frame is skipped (R170). -/

namespace Sys2Proof.Machine

/-! A deferred frame (R164). -/

/-- The state in which the dispatch loop begins: a parse image, the cursor on its first byte, no residual (R40). -/
def loadImage (img : List Byte) (s : State) : State := (s.setParse (some ⟨img, 0⟩)).setResidual []

/-- The dispatch loop from the first byte of a parse image to its end (R161). -/
def parseImage (img : List Byte) (s : State) : State := parseLoop (img.length + 1) (loadImage img s)

theorem exec_parse (buf : List Byte) (s : State) :
    exec (.parse buf) s = .next (parseImage (s.fr.residual ++ buf) s) := rfl

theorem parseImage_status (img : List Byte) (s : State) : (parseImage img s).status = some .ok :=
  (parseLoop_completes (ctx := ⟨img, 0⟩) rfl (Nat.lt_succ_self _)).2

/-- An image that is the beginning of one frame takes one pass, which defers it. -/
theorem parseImage_incomplete {img : List Byte} {s : State} {h : Header} (hsync : s.fr.sync = .synchronized)
    (hh : header s.impl.maxFrameBytes img 0 img.length = .ok h) (hshort : img.length < h.frameLength) :
    parseImage img s = endParse (s.setResidual img) := by
  have hcur : 0 < img.length := cursor_lt_of_header_ok (ctx := ⟨img, 0⟩) hh
  have hpass : parsePass ⟨img, 0⟩ (loadImage img s) = endParse (s.setResidual img) :=
    (parsePass_of_synchronized (s := loadImage img s) hcur hsync).trans
      (parseFrame_of_short (s := loadImage img s) (ctx := ⟨img, 0⟩) hh hshort)
  rw [parseImage, parseLoop_succ _ rfl, hpass, parseLoop_of_parse_none _ rfl]

/-- Settles O24: the deferral, as a whole PARSE and as one pass at any cursor. -/
theorem incompleteFrameIsDeferred : Obligations.IncompleteFrameIsDeferred := by
  constructor
  · intro buf s h hsync hh hshort
    exact congrArg Host.Outcome.next (parseImage_incomplete hsync hh hshort)
  · intro s ctx h hparse hsync hh hshort
    rw [step_of_parse hparse, parsePass_of_synchronized (cursor_lt_of_header_ok hh) hsync,
      parseFrame_of_short hh hshort]
    rfl

/-! The status register steers nothing while a PARSE runs: passes leave it alone, and the end of the command sets it
(R140, R144). -/

/-- The state with another status. -/
def State.withStatus (s : State) (v : Option CmdStatus) : State := { s with status := v }

theorem State.withStatus_self (s : State) : s.withStatus s.status = s := rfl

section
variable (s : State) (v : Option CmdStatus)

theorem applyAnswer_withStatus (b : ParamBundle) (r : Option PhaseEstimate) (f : DataFrame) :
    applyAnswer b r f (s.withStatus v) = ((applyAnswer b r f s).1, (applyAnswer b r f s).2.withStatus v) := by
  have hcell : (s.withStatus v).fr.lastEstCell = s.fr.lastEstCell := rfl
  cases r with
  | some est => rfl
  | none => cases hc : s.fr.lastEstCell <;> simp only [applyAnswer, hcell, hc]

theorem applyEstimate_withStatus (f : DataFrame) :
    applyEstimate f (s.withStatus v) = ((applyEstimate f s).1, (applyEstimate f s).2.withStatus v) := by
  have hparams : (s.withStatus v).fr.params = s.fr.params := rfl
  cases hp : s.fr.params with
  | none => simp only [applyEstimate, hparams, hp]
  | some b =>
    simp only [applyEstimate, hparams, hp]
    split
    · rfl
    · exact applyAnswer_withStatus (s.setEst _) v b _ f

theorem sampleFrame_withStatus (h : Header) (ts0 : I64) (i : Nat) (raw : PerChannel I32) :
    sampleFrame h ts0 i raw (s.withStatus v) = (sampleFrame h ts0 i raw s).withStatus v := by
  have happly := applyEstimate_withStatus s v (newFrame s.haveCfg h i (rowTimestamp ts0 i) raw)
  have hcfg : (s.withStatus v).haveCfg = s.haveCfg := rfl
  unfold sampleFrame
  rw [hcfg, happly]
  rfl

theorem expandRows_withStatus (img : List Byte) (p : Nat) (h : Header) (ts0 : I64) (rows : List Nat) :
    expandRows img p h ts0 rows (s.withStatus v) =
      (expandRows img p h ts0 rows s).map (·.withStatus v) := by
  induction rows generalizing s with
  | nil => rfl
  | cons i rest ih =>
    unfold expandRows
    cases readRow img p h.frameLength i with
    | error r => rfl
    | ok raw => simp only [except_ok_bind, sampleFrame_withStatus, ih]

theorem frameBody_withStatus (ctx : ParseCtx) (h : Header) :
    frameBody ctx h (s.withStatus v) = (frameBody ctx h s).map (·.withStatus v) := by
  unfold frameBody
  cases h.frameType with
  | configuration =>
    dsimp only [configFrame]
    cases decodeConfig ctx.img ctx.cur h <;> rfl
  | data =>
    dsimp only [dataFrame]
    cases require (decide (dataFrameLen ≤ h.frameLength)) ⟨.insufficientLength, ctx.cur⟩ with
    | error r => rfl
    | ok _ =>
      cases readI64 ctx.img ctx.cur h.frameLength (ctx.cur + 16) with
      | error r => rfl
      | ok ts0 => exact expandRows_withStatus s v ctx.img ctx.cur h ts0 _

theorem parseException_withStatus (ctx : ParseCtx) (r : Raise) :
    ∃ w, parseException ctx r (s.withStatus v) = (parseException ctx r s).withStatus w := by
  cases hpolicy : s.impl.resyncPolicy with
  | discardBuffer =>
    rw [parseException_of_discard ctx r hpolicy, parseException_of_discard ctx r (s := s.withStatus v) hpolicy]
    exact ⟨some .ok, rfl⟩
  | rescanFromNextByte =>
    rw [parseException_of_rescan ctx r hpolicy, parseException_of_rescan ctx r (s := s.withStatus v) hpolicy]
    exact ⟨v, rfl⟩

theorem parseFrame_withStatus (ctx : ParseCtx) :
    ∃ w, parseFrame ctx (s.withStatus v) = (parseFrame ctx s).withStatus w := by
  cases hh : header s.impl.maxFrameBytes ctx.img ctx.cur (ctx.img.length - ctx.cur) with
  | error r =>
    rw [parseFrame_of_header_error hh, parseFrame_of_header_error (s := s.withStatus v) hh]
    exact parseException_withStatus s v ctx r
  | ok h =>
    rcases lt_or_ge (ctx.img.length - ctx.cur) h.frameLength with hshort | hfit
    · rw [parseFrame_of_short hh hshort, parseFrame_of_short (s := s.withStatus v) hh hshort]
      exact ⟨some .ok, rfl⟩
    · have hbody' := frameBody_withStatus s v ctx h
      cases hbody : frameBody ctx h s with
      | error r =>
        rw [hbody] at hbody'
        rw [parseFrame_of_body_error hh hfit hbody, parseFrame_of_body_error (s := s.withStatus v) hh hfit hbody']
        exact parseException_withStatus s v ctx r
      | ok t =>
        rw [hbody] at hbody'
        rw [parseFrame_of_body_ok hh hfit hbody, parseFrame_of_body_ok (s := s.withStatus v) hh hfit hbody']
        exact ⟨v, rfl⟩

theorem parsePass_withStatus (ctx : ParseCtx) :
    ∃ w, parsePass ctx (s.withStatus v) = (parsePass ctx s).withStatus w := by
  rcases le_or_gt ctx.img.length ctx.cur with hend | hcur
  · rw [parsePass_of_end hend, parsePass_of_end hend]
    exact ⟨some .ok, rfl⟩
  cases hsync : s.fr.sync with
  | synchronized =>
    rw [parsePass_of_synchronized hcur hsync, parsePass_of_synchronized (s := s.withStatus v) hcur hsync]
    exact parseFrame_withStatus s v ctx
  | unsynchronized =>
    cases hscan : scan ctx.img ctx.cur with
    | none =>
      rw [parsePass_of_scan_none hsync hscan, parsePass_of_scan_none (s := s.withStatus v) hsync hscan]
      exact ⟨some .ok, rfl⟩
    | some p =>
      rw [parsePass_of_scan_some hsync hscan, parsePass_of_scan_some (s := s.withStatus v) hsync hscan]
      exact parseFrame_withStatus ((s.setSync .synchronized).setParse (some ⟨ctx.img, p⟩)) v ⟨ctx.img, p⟩

theorem parseLoop_withStatus (fuel : Nat) :
    ∃ w, parseLoop fuel (s.withStatus v) = (parseLoop fuel s).withStatus w := by
  induction fuel generalizing s v with
  | zero => exact ⟨v, rfl⟩
  | succ n ih =>
    cases hparse : s.parse with
    | none =>
      rw [parseLoop_of_parse_none _ hparse, parseLoop_of_parse_none (s := s.withStatus v) _ hparse]
      exact ⟨v, rfl⟩
    | some ctx =>
      obtain ⟨w, hw⟩ := parsePass_withStatus s v ctx
      rw [parseLoop_succ n hparse, parseLoop_succ (s := s.withStatus v) n hparse, hw]
      exact ih _ w

/-- A whole PARSE sets the status, so that it does the same whatever the last command has answered. -/
theorem parseImage_withStatus (img : List Byte) : parseImage img (s.withStatus v) = parseImage img s := by
  obtain ⟨w, hw⟩ := parseLoop_withStatus (loadImage img s) v (img.length + 1)
  have hstep : parseImage img (s.withStatus v) = (parseImage img s).withStatus w := hw
  have hok : w = some .ok := by
    rw [← parseImage_status img (s.withStatus v), hstep]
    rfl
  rw [hstep, hok, ← parseImage_status img s, State.withStatus_self]

end

/-- Settles O25: the first PARSE leaves its bytes as the residual and the status Ok, and nothing else; the second then
has the image of the whole. -/
theorem splitFrameParsesAsWhole : Obligations.SplitFrameParsesAsWhole := by
  intro a b s t h hsync hres hh hshort hfirst
  rw [exec_parse, hres, List.nil_append, parseImage_incomplete hsync hh hshort] at hfirst
  cases hfirst
  have hstatus : parseImage (a ++ b) (endParse (s.setResidual a)) = parseImage (a ++ b) (s.withStatus (some .ok)) := rfl
  rw [exec_parse, exec_parse, hres, List.nil_append]
  exact congrArg Host.Outcome.next (hstatus.trans (parseImage_withStatus s (some .ok) (a ++ b)))

/-! Garbage before a configuration frame (R170). -/

theorem getElem?_eq_beU8 {img : List Byte} {a : Nat} (ha : a < img.length) : img[a]? = some (beU8 img a) := by
  obtain ⟨t, ht⟩ := standsAt_beU8 (img := img) (a := a) ha
  have hhead : (img.drop a)[0]? = some (beU8 img a) := by
    rw [← ht]
    rfl
  rwa [List.getElem?_drop, Nat.add_zero] at hhead

/-- A header that HDR accepts begins with a sync pattern (R114, R181). -/
theorem patternAt_of_header_ok {m : Option Nat} {img : List Byte} {p avail : Nat} {h : Header}
    (hh : header m img p avail = .ok h) : PatternAt img p := by
  obtain ⟨-, hfit, -, hver, htype, -⟩ := header_ok hh
  have hfirst := getElem?_eq_beU8 (img := img) (a := p) (by omega)
  have hsecond := getElem?_eq_beU8 (img := img) (a := p + 1) (by omega)
  refine ⟨?_, hver ▸ hsecond⟩
  rwa [hfirst, Option.some_inj, Option.some_inj]

theorem frameBody_configuration {ctx : ParseCtx} {h : Header} {f : ConfigurationFrame} (s : State)
    (htype : h.frameType = .configuration) (hdec : decodeConfig ctx.img ctx.cur h = .ok f) :
    frameBody ctx h s = .ok (commitConfig f s) := by
  simp only [frameBody, htype]
  exact configFrame_ok.mpr ⟨f, hdec, rfl⟩

/-- With the cursor at the end of the image one more pass ends the PARSE (R168). -/
theorem parseLoop_of_end {fuel : Nat} {s : State} {ctx : ParseCtx} (hfuel : 0 < fuel) (hparse : s.parse = some ctx)
    (hend : ctx.img.length ≤ ctx.cur) : parseLoop fuel s = endParse s := by
  cases fuel with
  | zero => omega
  | succ n => rw [parseLoop_succ n hparse, parsePass_of_end hend, parseLoop_of_parse_none n rfl]

theorem State.setResidual_self {s : State} {l : List Byte} (h : s.fr.residual = l) : s.setResidual l = s := by
  rw [← h]
  rfl

/-- Settles O27: the first pass finds the frame behind the garbage and runs it, the second ends the PARSE. -/
theorem resynchronisesPastGarbage : Obligations.ResynchronisesPastGarbage := by
  intro g frame s h f hsync hres hgarbage hh htype hlen hdec
  have hscan : scan (g ++ frame) 0 = some g.length :=
    scan_eq_some_iff.mpr ⟨Nat.zero_le _, patternAt_of_header_ok hh, fun q _ => hgarbage q⟩
  have havail : (g ++ frame).length - g.length = frame.length := by
    rw [List.length_append, Nat.add_sub_cancel_left]
  have hloaded : loadImage (g ++ frame) s = s.setParse (some ⟨g ++ frame, 0⟩) := State.setResidual_self hres
  have hpass : parsePass ⟨g ++ frame, 0⟩ (s.setParse (some ⟨g ++ frame, 0⟩)) =
      (commitConfig f (s.setSync .synchronized)).setParse (some ⟨g ++ frame, g.length + h.frameLength⟩) := by
    have hsync' : (s.setParse (some ⟨g ++ frame, 0⟩)).fr.sync = .unsynchronized := hsync
    have hbody := frameBody_configuration (ctx := ⟨g ++ frame, g.length⟩)
      ((s.setSync .synchronized).setParse (some ⟨g ++ frame, g.length⟩)) htype hdec
    rw [parsePass_of_scan_some hsync' hscan]
    exact (parseFrame_of_body_ok (havail ▸ hh) (by rw [havail, hlen]) hbody).trans rfl
  have hnonempty : 0 < (g ++ frame).length := Nat.zero_lt_of_lt (patternAt_of_header_ok hh).lt_length
  have hend : (g ++ frame).length ≤ g.length + h.frameLength := by rw [hlen, List.length_append]
  rw [exec_parse, hres, List.nil_append, parseImage, hloaded, parseLoop_succ _ rfl, hpass,
    parseLoop_of_end (ctx := ⟨g ++ frame, g.length + h.frameLength⟩) hnonempty rfl hend]
  rfl

end Sys2Proof.Machine
end

section
/-! PROOF. The 16-byte header (42_header): the encoder's byte layout and HDR reading it back (R183), and the checks of
HDR in their order, with what it answers when they pass (R180 to R182, 60_exceptions R312). -/

namespace Sys2Proof.Machine

/-! Bytes and numbers at an offset. -/

/-- Byte `j` of a big-endian field is the number with the `n - 1 - j` bytes below it cut off (R72). -/
theorem beBytes_getElem? {n j : Nat} (v : Nat) (hj : j < n) :
    (beBytes n v)[j]? = some (BitVec.ofNat 8 (v / 256 ^ (n - 1 - j))) := by
  induction n generalizing j with
  | zero => cases hj
  | succ n ih =>
    cases j with
    | zero => rfl
    | succ j =>
      have hexp : n + 1 - 1 - (j + 1) = n - 1 - j := by omega
      rw [beBytes, List.getElem?_cons_succ, ih (Nat.lt_of_succ_lt_succ hj), hexp]

theorem getElem?_of_standsAt {img bs : List Byte} {a j : Nat} (h : StandsAt img a bs) (hj : j < bs.length) :
    img[a + j]? = bs[j]? := by
  obtain ⟨t, ht⟩ := h
  rw [← List.getElem?_drop, ← ht, List.getElem?_append_left hj]

/-- A field that stands in the image is there byte by byte (R183). -/
theorem getElem?_of_standsAt_beBytes {img : List Byte} {a n v j : Nat} (h : StandsAt img a (beBytes n v)) (hj : j < n) :
    img[a + j]? = some (BitVec.ofNat 8 (v / 256 ^ (n - 1 - j))) :=
  (getElem?_of_standsAt h (by rwa [beBytes_length])).trans (beBytes_getElem? v hj)

theorem beAt_of_standsAt {img : List Byte} {a n v : Nat} (hv : v < 256 ^ n) (h : StandsAt img a (beBytes n v)) :
    beAt img a n = v := by
  have hslice := slice_of_standsAt h
  rw [beBytes_length] at hslice
  have hread : beAt img a n = beNat (beBytes n v) := congrArg beNat hslice
  rw [hread, beNat_beBytes, Nat.mod_eq_of_lt hv]

/-- What is laid out between two pieces stands where the first one ends. -/
theorem standsAt_between (pre bs post : List Byte) : StandsAt (pre ++ bs ++ post) pre.length bs := by
  have hwhole := (standsAt_append.mp (standsAt_append.mp (standsAt_zero_self (pre ++ bs ++ post))).1).2
  rwa [Nat.zero_add] at hwhole

/-! The header that is read. -/

theorem frameType_byte_cases (t : FrameType) : t.byte = 0x00#8 ∨ t.byte = 0x01#8 := by
  cases t with
  | data => exact .inl rfl
  | configuration => exact .inr rfl

theorem frameType_byte_eq (t : FrameType) : t.byte = if t = .data then 0x00#8 else 0x01#8 := by
  cases t with
  | data => rfl
  | configuration => rfl

/-- The record HDR returns once the type and version bytes have passed (R180). -/
theorem readHeader_of_type {img : List Byte} {p : Nat} {t : FrameType} (htype : beU8 img p = t.byte)
    (hver : beU8 img (p + 1) = 0x01#8) :
    readHeader img p = ⟨t, 0x01#8, beAt img (p + 2) 4 + 6, BitVec.ofNat 64 (beAt img (p + 6) 8),
      BitVec.ofNat 16 (beAt img (p + 14) 2)⟩ := by
  have hkind : (if beU8 img p = 0x00#8 then FrameType.data else .configuration) = t := by
    rw [htype]
    cases t with
    | data => rfl
    | configuration => rfl
  rw [readHeader, hkind, hver]
  rfl

/-- The layout of an encoded header: the type byte, 0x01 and three big-endian fields (R101, R183). -/
theorem standsAt_encodeHeader_iff {img : List Byte} {p : Nat} {h : Header} :
    StandsAt img p (encodeHeader h) ↔
      StandsAt img p [h.frameType.byte] ∧ StandsAt img (p + 1) [0x01#8] ∧
      StandsAt img (p + 2) (beBytes 4 (h.frameLength - 6)) ∧
      StandsAt img (p + 6) (beBytes 8 h.channelID.toNat) ∧ StandsAt img (p + 14) (beBytes 2 h.packetCount.toNat) := by
  simp only [encodeHeader, standsAt_append, standsAt_cons (bs := [_]), List.length_append, List.length_cons,
    List.length_nil, beBytes_length, and_assoc]
  rfl

section
variable {h : Header}

theorem header_wf_iff : h.wf = true ↔ h.version = 0x01#8 ∧ 16 ≤ h.frameLength ∧ h.frameLength ≤ 2 ^ 32 + 5 := by
  rw [Header.wf, decide_eq_true_iff]

/-- The length field of an encoded valid header is the declared length less 6: it fits the four bytes (R182, R183). -/
theorem beU32_of_standsAt_encodeHeader {img : List Byte} {p : Nat} (hwf : h.wf = true)
    (hs : StandsAt img p (encodeHeader h)) : beU32 img (p + 2) + 6 = h.frameLength := by
  obtain ⟨-, hmin, hmax⟩ := header_wf_iff.mp hwf
  obtain ⟨-, -, hlen, -⟩ := standsAt_encodeHeader_iff.mp hs
  have hfield : beU32 img (p + 2) = h.frameLength - 6 := beAt_of_standsAt (by omega) hlen
  omega

theorem readHeader_of_standsAt_encodeHeader {img : List Byte} {p : Nat} (hwf : h.wf = true)
    (hs : StandsAt img p (encodeHeader h)) : readHeader img p = h := by
  obtain ⟨hver, -⟩ := header_wf_iff.mp hwf
  obtain ⟨htype, hone, -, hch, hcnt⟩ := standsAt_encodeHeader_iff.mp hs
  have hfl : beAt img (p + 2) 4 + 6 = h.frameLength := beU32_of_standsAt_encodeHeader hwf hs
  rw [readHeader_of_type (beU8_of_standsAt htype) (beU8_of_standsAt hone), hfl, ofNat_beAt_of_standsAt rfl hch,
    ofNat_beAt_of_standsAt rfl hcnt, ← hver]

/-- HDR gives back a valid header wherever its encoding stands (R183). -/
theorem header_of_standsAt_encodeHeader {img : List Byte} {p avail : Nat} (hwf : h.wf = true)
    (hs : StandsAt img p (encodeHeader h)) (havail : 16 ≤ avail) (himg : p + 16 ≤ img.length) :
    header none img p avail = .ok h := by
  obtain ⟨-, hmin, -⟩ := header_wf_iff.mp hwf
  obtain ⟨htype, hone, -⟩ := standsAt_encodeHeader_iff.mp hs
  have hread : readHeader img p = h := readHeader_of_standsAt_encodeHeader hwf hs
  have hbyte : beU8 img p = 0x00#8 ∨ beU8 img p = 0x01#8 := beU8_of_standsAt htype ▸ frameType_byte_cases h.frameType
  have hok : header none img p avail = .ok (readHeader img p) :=
    header_eq_ok havail himg (beU8_of_standsAt hone) hbyte (hread.symm ▸ hmin) fun _ hk => nomatch hk
  rwa [hread] at hok

end

/-- Settles O19: the encoding stands behind `pre`, and HDR and the length field read it there; its own bytes are those
that stand in it from offset 0 on. -/
theorem headerEncodingRoundTrips : Obligations.HeaderEncodingRoundTrips := by
  intro h pre post hwf
  have hs := standsAt_between pre (encodeHeader h) post
  have himg : pre.length + 16 ≤ (pre ++ encodeHeader h ++ post).length := by
    rw [List.length_append, List.length_append, encodeHeader_length]
    omega
  obtain ⟨htype, hone, hlen, hch, hcnt⟩ := standsAt_encodeHeader_iff.mp (standsAt_zero_self (encodeHeader h))
  refine ⟨header_of_standsAt_encodeHeader hwf hs (by omega) himg, beU32_of_standsAt_encodeHeader hwf hs,
    encodeHeader_length h, ?_, getElem?_of_standsAt (j := 0) hone Nat.zero_lt_one,
    fun j hj => getElem?_of_standsAt_beBytes hlen hj, fun j hj => getElem?_of_standsAt_beBytes hch hj,
    fun j hj => getElem?_of_standsAt_beBytes hcnt hj⟩
  exact (getElem?_of_standsAt (j := 0) htype Nat.zero_lt_one).trans (congrArg some (frameType_byte_eq h.frameType))

/-! The checks of HDR, each reached when those before it have passed (R181, R182). -/

theorem frameLengthOk_iff {m : Option Nat} {fl : Nat} :
    frameLengthOk m fl = true ↔ 16 ≤ fl ∧ ∀ k, m = some k → fl ≤ k := by
  cases m with
  | none => simp [frameLengthOk]
  | some k => simp [frameLengthOk]

section
variable {m : Option Nat} {img : List Byte} {p avail : Nat}

theorem header_of_avail_lt (havail : avail < 16) : header m img p avail = .error ⟨.insufficientLength, p⟩ :=
  if_pos (.inl havail)

theorem header_of_version_ne (havail : 16 ≤ avail) (himg : p + 16 ≤ img.length) (hver : beU8 img (p + 1) ≠ 0x01#8) :
    header m img p avail = .error ⟨.unsupportedVersion, p⟩ := by
  rw [header, if_neg (by omega), if_pos hver]

theorem header_of_type_ne (havail : 16 ≤ avail) (himg : p + 16 ≤ img.length) (hver : beU8 img (p + 1) = 0x01#8)
    (htype : beU8 img p ≠ 0x00#8 ∧ beU8 img p ≠ 0x01#8) : header m img p avail = .error ⟨.unknownFrameType, p⟩ := by
  rw [header, if_neg (by omega), if_neg (not_not.mpr hver), if_pos htype]

theorem header_of_frameLength_not_ok (havail : 16 ≤ avail) (himg : p + 16 ≤ img.length)
    (hver : beU8 img (p + 1) = 0x01#8) (htype : beU8 img p = 0x00#8 ∨ beU8 img p = 0x01#8)
    (hlen : ¬frameLengthOk m (readHeader img p).frameLength = true) :
    header m img p avail = .error ⟨.invalidFrameLength, p⟩ := by
  rw [header, if_neg (by omega), if_neg (not_not.mpr hver), if_neg (not_and_not_right.mpr htype.resolve_left)]
  exact if_neg hlen

end

section
variable {img : List Byte} {p avail : Nat} {s : State}

/-- HDR called directly takes the exception entry when it raises (R312). -/
theorem exec_hdr_of_error {r : Raise} (h : header s.impl.maxFrameBytes img p avail = .error r) :
    exec (.hdr img p avail) s = .next (takeException r s) :=
  congrArg (finishValue s .header) h

theorem exec_hdr_of_ok {v : Header} (h : header s.impl.maxFrameBytes img p avail = .ok v) :
    exec (.hdr img p avail) s = .next (s.setResult (.header v)) :=
  congrArg (finishValue s .header) h

end

/-- Settles O23: one lemma per check, the first two bytes looked up in the image; past the checks the header read is
the record stated. -/
theorem hdrChecksInOrder : Obligations.HdrChecksInOrder := by
  intro img p avail s havail fl raised
  refine ⟨fun hshort => exec_hdr_of_error (header_of_avail_lt hshort), fun hlong => ?_⟩
  have himg : p + 16 ≤ img.length := by omega
  rw [getElem?_eq_beU8 (img := img) (a := p) (by omega), getElem?_eq_beU8 (img := img) (a := p + 1) (by omega)]
  simp only [ne_eq, Option.some_inj]
  refine ⟨fun hver => exec_hdr_of_error (header_of_version_ne hlong himg hver), fun hver =>
    ⟨fun htype => exec_hdr_of_error (header_of_type_ne hlong himg hver htype), fun t htype => ?_⟩⟩
  have hbyte : beU8 img p = 0x00#8 ∨ beU8 img p = 0x01#8 := htype ▸ frameType_byte_cases t
  constructor
  · intro hbad
    refine exec_hdr_of_error (header_of_frameLength_not_ok hlong himg hver hbyte fun hok => ?_)
    obtain ⟨hmin, hmax⟩ := frameLengthOk_iff.mp hok
    rcases hbad with hsmall | ⟨m, hm, hlarge⟩
    · exact absurd hsmall (Nat.not_lt.mpr hmin)
    · exact absurd hlarge (Nat.not_lt.mpr (hmax m hm))
  · rintro ⟨hmin, hmax⟩
    rw [exec_hdr_of_ok (header_eq_ok hlong himg hver hbyte hmin hmax), readHeader_of_type htype hver]
    rfl

end Sys2Proof.Machine
end

section
/-! PROOF. Reads that decode exactly when they lie in the declared frame (20_memory R79), and with them NAME, MAKECELL
and the checks and the decoding of CFG (43_config_frame R190 to R202). -/

namespace Sys2Proof.Machine

/-! A read and the condition under which it decodes. -/

section
variable {α β : Type}

/-- `x` is the value `v` when `c` holds, and raises `r` when it does not. -/
def ReadsIf (r : Raise) (c : Prop) (v : α) (x : Except Raise α) : Prop := (c → x = .ok v) ∧ (¬c → x = .error r)

variable {r mismatch : Raise} {c c' : Prop} {v : α} {v' : β} {x : Except Raise α} {k : α → Except Raise β}

theorem ReadsIf.congr (hx : ReadsIf r c v x) (h : c ↔ c') : ReadsIf r c' v x := ⟨hx.1 ∘ h.mpr, hx.2 ∘ mt h.mp⟩

theorem ReadsIf.map (f : α → β) (hx : ReadsIf r c v x) : ReadsIf r c (f v) (x.map f) :=
  ⟨fun hc => congrArg (Except.map f) (hx.1 hc), fun hc => congrArg (Except.map f) (hx.2 hc)⟩

theorem ReadsIf.bind_error (hx : ReadsIf r c v x) (hc : ¬c) : (x >>= k) = .error r := by
  rw [hx.2 hc]
  rfl

theorem ReadsIf.bind_ok (hx : ReadsIf r c v x) (hc : c) : (x >>= k) = k v := by
  rw [hx.1 hc, except_ok_bind]

/-- Reads in sequence decode exactly when each does. -/
theorem ReadsIf.bind (hx : ReadsIf r c v x) (hk : c → ReadsIf r c' v' (k v)) : ReadsIf r (c ∧ c') v' (x >>= k) := by
  refine ⟨fun ⟨hc, hc'⟩ => (hx.bind_ok hc).trans ((hk hc).1 hc'), fun hcc' => ?_⟩
  by_cases hc : c
  · exact (hx.bind_ok hc).trans ((hk hc).2 fun hc' => hcc' ⟨hc, hc'⟩)
  · exact hx.bind_error hc

/-- Behind the last read of a sequence only its value is left to be built. -/
theorem ReadsIf.bind_last (hx : ReadsIf r c v x) (hk : k v = .ok v') : ReadsIf r c v' (x >>= k) :=
  ⟨fun hc => (hx.bind_ok hc).trans hk, hx.bind_error⟩

/-! A field that is read and then checked (R191). -/

variable {ok : α → Bool}

theorem ReadsIf.checked_right (hx : ReadsIf r c v x) (hc : c) (hv : ok v = true) :
    (x >>= fun a => require (ok a) mismatch >>= fun _ => k a) = k v := by
  rw [hx.bind_ok hc, hv]
  rfl

theorem ReadsIf.checked_wrong (hx : ReadsIf r c v x) (hc : c) (hv : ok v = false) :
    (x >>= fun a => require (ok a) mismatch >>= fun _ => k a) = .error mismatch := by
  rw [hx.bind_ok hc, hv]
  rfl

theorem forall_channel_iff {d : Channel → Prop} :
    (d .ia ∧ d .ib ∧ d .ic ∧ d .va ∧ d .vb ∧ d .vc) ↔ ∀ c, d c := by
  refine ⟨fun ⟨hia, hib, hic, hva, hvb, hvc⟩ c => ?_, fun h => ⟨h .ia, h .ib, h .ic, h .va, h .vb, h .vc⟩⟩
  cases c with
  | ia => exact hia
  | ib => exact hib
  | ic => exact hic
  | va => exact hva
  | vb => exact hvb
  | vc => exact hvc

/-- A read for every channel decodes exactly when each channel's does. -/
theorem readPerChannel_readsIf {f : Channel → Except Raise α} {t : PerChannel α} {d : Channel → Prop}
    (h : ∀ c, ReadsIf r (d c) (t.get c) (f c)) : ReadsIf r (∀ c, d c) t (readPerChannel f) := by
  have hseq : ReadsIf r (d .ia ∧ d .ib ∧ d .ic ∧ d .va ∧ d .vb ∧ d .vc) t (readPerChannel f) :=
    (h .ia).bind fun _ => (h .ib).bind fun _ => (h .ic).bind fun _ => (h .va).bind fun _ => (h .vb).bind fun _ =>
      (h .vc).bind_last rfl
  exact hseq.congr forall_channel_iff

end

section
variable {img : List Byte} {p fl a : Nat}

/-- A field that begins inside the frame is read exactly when it ends inside it (R79). -/
theorem memRead_readsIf (n : Nat) (hp : p ≤ a) (hfl : p + fl ≤ img.length) :
    ReadsIf ⟨.insufficientLength, p⟩ (a + n ≤ p + fl) (beAt img a n) (memRead img p fl a n) :=
  ⟨fun hend => memRead_ok.mpr ⟨⟨hp, hend, hend.trans hfl⟩, rfl⟩,
    fun hend => memRead_error.mpr ⟨fun ⟨_, hend', _⟩ => hend hend', rfl⟩⟩

theorem readU8_readsIf (hp : p ≤ a) (hfl : p + fl ≤ img.length) :
    ReadsIf ⟨.insufficientLength, p⟩ (a + 1 ≤ p + fl) (beU8 img a) (readU8 img p fl a) :=
  (memRead_readsIf 1 hp hfl).map _

/-! The scan of NAME, byte by byte (R193). -/

theorem nameScan_of_frame_end {t : Nat} (hfl : p + fl ≤ img.length) (fuel : Nat) (hend : p + fl ≤ a + t) :
    nameScan img p fl a (fuel + 1) t = .error ⟨.insufficientLength, p⟩ := by
  rw [nameScan, (readU8_readsIf (by omega) hfl).bind_error (by omega)]

section
variable {t : Nat} (hp : p ≤ a) (hfl : p + fl ≤ img.length)
include hp hfl

theorem nameScan_of_byte_ne (fuel : Nat) (hin : a + t < p + fl) (hne : img[a + t]? ≠ some 0x00#8) :
    nameScan img p fl a (fuel + 1) t = nameScan img p fl a fuel (t + 1) := by
  rw [getElem?_eq_beU8 (by omega)] at hne
  rw [nameScan, (readU8_readsIf (by omega) hfl).bind_ok hin]
  exact if_neg (mt (congrArg some) hne)

theorem nameScan_of_terminator (fuel : Nat) (hin : a + t < p + fl) (hzero : img[a + t]? = some 0x00#8) :
    nameScan img p fl a (fuel + 1) t = .ok (slice img a t, a + t + 1) := by
  rw [getElem?_eq_beU8 (by omega)] at hzero
  rw [nameScan, (readU8_readsIf (by omega) hfl).bind_ok hin]
  exact if_pos (Option.some.inj hzero)

/-- NAME runs through the bytes of the frame that are not 0x00, up to 21 of them. -/
theorem readName_skip {n : Nat} (hn : n ≤ 21) (hskip : ∀ u, u < n → a + u < p + fl ∧ img[a + u]? ≠ some 0x00#8) :
    readName img p fl a = nameScan img p fl a (21 - n) n := by
  induction n with
  | zero => rfl
  | succ n ih =>
    obtain ⟨hin, hne⟩ := hskip n n.lt_succ_self
    have hfuel : 21 - n = 21 - (n + 1) + 1 := by omega
    rw [ih (by omega) fun u hu => hskip u (by omega), hfuel, nameScan_of_byte_ne hp hfl _ hin hne]

theorem readName_of_terminator (ht : t ≤ 20) (hin : a + t < p + fl) (hzero : img[a + t]? = some 0x00#8)
    (hne : ∀ u, u < t → img[a + u]? ≠ some 0x00#8) : readName img p fl a = .ok (slice img a t, a + t + 1) := by
  have hfuel : 21 - t = 20 - t + 1 := by omega
  rw [readName_skip hp hfl (by omega) fun u hu => ⟨by omega, hne u hu⟩, hfuel,
    nameScan_of_terminator hp hfl _ hin hzero]

theorem readName_of_no_terminator (hin : a + 21 ≤ p + fl) (hne : ∀ u, u < 21 → img[a + u]? ≠ some 0x00#8) :
    readName img p fl a = .ok (slice img a 21, a + 22) :=
  readName_skip hp hfl le_rfl fun u hu => ⟨by omega, hne u hu⟩

/-- Where the frame ends before a terminator or a twenty-first byte, the scan reaches its end and raises. -/
theorem readName_of_frame_end (ht : t ≤ 20) (hend : p + fl ≤ a + t)
    (hne : ∀ u, u < t → img[a + u]? ≠ some 0x00#8) : readName img p fl a = .error ⟨.insufficientLength, p⟩ := by
  have hfuel : 21 - (p + fl - a) = 20 - (p + fl - a) + 1 := by omega
  rw [readName_skip (n := p + fl - a) hp hfl (by omega) fun u hu => ⟨by omega, hne u (by omega)⟩, hfuel,
    nameScan_of_frame_end hfl _ (by omega)]

end

/-- NAME called directly takes the exception entry when it raises (R312). -/
theorem exec_name_of_error {s : State} {r : Raise} (h : readName img p fl a = .error r) :
    exec (.name img p fl a) s = .next (takeException r s) :=
  congrArg (finishValue s fun n : List Byte × Nat => .name n.1 n.2) h

theorem exec_name_of_ok {s : State} {bs : List Byte} {next : Nat} (h : readName img p fl a = .ok (bs, next)) :
    exec (.name img p fl a) s = .next (s.setResult (.name bs next)) :=
  congrArg (finishValue s fun n : List Byte × Nat => .name n.1 n.2) h

end

/-- Settles O29: the scan runs through the bytes before the terminator, before the twenty-second byte or before the end
of the frame, whichever comes first. -/
theorem nameStopsAtTerminatorOrTwentyOne : Obligations.NameStopsAtTerminatorOrTwentyOne :=
  fun _ _ _ _ _ hfl hp =>
    ⟨fun _ ht hin hzero hne => exec_name_of_ok (readName_of_terminator hp hfl ht hin hzero hne),
      fun hin hne => exec_name_of_ok (readName_of_no_terminator hp hfl hin hne),
      fun _ ht hend hne => exec_name_of_error (readName_of_frame_end hp hfl ht hend hne)⟩

/-! The cell (R197). -/

theorem makeCell_analogDef_get (scalar : PerChannel F32) (names : PerChannel (List Byte)) (c : Channel) :
    (makeCell scalar names).analogDef.get c = ⟨names.get c, scalar.get c, .singlePointOnWave⟩ :=
  perChannel_get_ofFn _ c

theorem makeCell_phasorDef_get (scalar : PerChannel F32) (names : PerChannel (List Byte)) (c : Channel) :
    (makeCell scalar names).phasorDef.get c = if c = .ia ∨ c = .ib ∨ c = .ic then .current else .voltage := by
  cases c <;> rfl

/-- Settles O30: the cell is `makeCell`, whose slots are these. -/
theorem makecellFillsEverySlot : Obligations.MakecellFillsEverySlot := fun scalar names _ =>
  ⟨makeCell scalar names, rfl, makeCell_analogDef_get scalar names, makeCell_phasorDef_get scalar names, rfl⟩

/-! CFG called directly (R190, R312). -/

section
variable {img : List Byte} {p : Nat} {h : Header} {s : State}

theorem exec_cfg_of_error {r : Raise} (hdec : decodeConfig img p h = .error r) :
    exec (.cfg img p h) s = .next (takeException r s) := by
  show finish s (configFrame img p h s) = _
  rw [configFrame, hdec]
  rfl

theorem exec_cfg_of_ok {f : ConfigurationFrame} (hdec : decodeConfig img p h = .ok f) :
    exec (.cfg img p h) s = .next (commitConfig f s) :=
  congrArg (finish s) (configFrame_ok.mpr ⟨f, hdec, rfl⟩)

end

/-! The fixed block, field by field (R190, R191). -/

/-- A field of `n` bytes holds a word exactly when the bytes spell its number. -/
theorem ofNat_beAt_eq_iff {img : List Byte} {a w n v : Nat} (hw : w = 8 * n) (hv : v < 2 ^ w) :
    BitVec.ofNat w (beAt img a n) = BitVec.ofNat w v ↔ beAt img a n = v := by
  have hpow : 256 ^ n = 2 ^ w := by rw [hw, pow_mul]; norm_num
  have hlt : beAt img a n < 2 ^ w := hpow ▸ beAt_lt img a n
  refine ⟨fun h => ?_, congrArg _⟩
  have hnat := congrArg BitVec.toNat h
  rwa [BitVec.toNat_ofNat, BitVec.toNat_ofNat, Nat.mod_eq_of_lt hlt, Nat.mod_eq_of_lt hv] at hnat

section
variable {β : Type} {img : List Byte} {p fl a : Nat} {mismatch : Raise} (hp : p ≤ a) (hfl : p + fl ≤ img.length)
include hp hfl

theorem readU16_readsIf : ReadsIf ⟨.insufficientLength, p⟩ (a + 2 ≤ p + fl) (beU16 img a) (readU16 img p fl a) :=
  (memRead_readsIf 2 hp hfl).map _

theorem readI32_readsIf :
    ReadsIf ⟨.insufficientLength, p⟩ (a + 4 ≤ p + fl) (BitVec.ofNat 32 (beAt img a 4)) (readI32 img p fl a) :=
  (memRead_readsIf 4 hp hfl).map _

theorem readF32_readsIf :
    ReadsIf ⟨.insufficientLength, p⟩ (a + 4 ≤ p + fl) (BitVec.ofNat 32 (beAt img a 4)) (readF32 img p fl a) :=
  (memRead_readsIf 4 hp hfl).map _

section
variable {v : Nat} (hv : v < 2 ^ 16) (hin : a + 2 ≤ p + fl) {k : U16 → Except Raise β}
include hv hin

/-- A count that is the one required is passed on (R191). -/
theorem readU16_checked_right (heq : beAt img a 2 = v) :
    (readU16 img p fl a >>= fun x => require (decide (x = BitVec.ofNat 16 v)) mismatch >>= fun _ => k x) =
      k (BitVec.ofNat 16 v) := by
  have hval : beU16 img a = BitVec.ofNat 16 v := (ofNat_beAt_eq_iff rfl hv).mpr heq
  rw [← hval]
  exact (readU16_readsIf hp hfl).checked_right hin (decide_eq_true rfl)

theorem readU16_checked_wrong (hne : beAt img a 2 ≠ v) :
    (readU16 img p fl a >>= fun x => require (decide (x = BitVec.ofNat 16 v)) mismatch >>= fun _ => k x) =
      .error mismatch :=
  (readU16_readsIf hp hfl).checked_wrong hin (decide_eq_false (mt (ofNat_beAt_eq_iff rfl hv).mp hne))

end

section
variable (hin : a + 4 ≤ p + fl) {k : I32 → Except Raise β}
include hin

/-- The sample rate is compared as a signed number (R76, R191). -/
theorem readI32_checked_right (heq : beAt img a 4 = 3000) :
    (readI32 img p fl a >>= fun x => require (decide (x.toInt = 3000)) mismatch >>= fun _ => k x) = k 3000#32 := by
  have hval : BitVec.ofNat 32 (beAt img a 4) = 3000#32 := congrArg _ heq
  rw [← hval]
  exact (readI32_readsIf hp hfl).checked_right hin (decide_eq_true (congrArg BitVec.toInt hval))

theorem readI32_checked_wrong (hne : beAt img a 4 ≠ 3000) :
    (readI32 img p fl a >>= fun x => require (decide (x.toInt = 3000)) mismatch >>= fun _ => k x) =
      .error mismatch := by
  refine (readI32_readsIf hp hfl).checked_wrong hin (decide_eq_false fun hrate => hne ?_)
  exact (ofNat_beAt_eq_iff rfl (by norm_num)).mp (BitVec.toInt_inj.mp (hrate : _ = (3000#32).toInt))

end

end

/-! The checks of CFG, each reached when those before it have passed (R190, R201). -/

section
variable {img : List Byte} {p : Nat} {h : Header} (hfl : p + h.frameLength ≤ img.length)
include hfl

theorem decodeConfig_of_analog_cut (hcut : h.frameLength < 18) :
    decodeConfig img p h = .error ⟨.insufficientLength, p⟩ :=
  (readU16_readsIf (by omega) hfl).bind_error (by omega)

theorem decodeConfig_of_analog_ne (hlen : 18 ≤ h.frameLength) (hne : beAt img (p + 16) 2 ≠ 6) :
    decodeConfig img p h = .error ⟨.protocolMismatch, p⟩ :=
  readU16_checked_wrong (by omega) hfl (by norm_num) (by omega) hne

section
variable (hanalog : beAt img (p + 16) 2 = 6)
include hanalog

theorem decodeConfig_of_digital_cut (hlen : 18 ≤ h.frameLength) (hcut : h.frameLength < 20) :
    decodeConfig img p h = .error ⟨.insufficientLength, p⟩ :=
  Eq.trans (readU16_checked_right (by omega) hfl (by norm_num) (by omega) hanalog)
    ((readU16_readsIf (by omega) hfl).bind_error (by omega))

theorem decodeConfig_of_digital_ne (hlen : 20 ≤ h.frameLength) (hne : beAt img (p + 18) 2 ≠ 0) :
    decodeConfig img p h = .error ⟨.protocolMismatch, p⟩ :=
  Eq.trans (readU16_checked_right (by omega) hfl (by norm_num) (by omega) hanalog)
    (readU16_checked_wrong (by omega) hfl (by norm_num) (by omega) hne)

variable (hdigital : beAt img (p + 18) 2 = 0)
include hdigital

theorem decodeConfig_of_rate_cut (hlen : 20 ≤ h.frameLength) (hcut : h.frameLength < 24) :
    decodeConfig img p h = .error ⟨.insufficientLength, p⟩ :=
  Eq.trans (readU16_checked_right (by omega) hfl (by norm_num) (by omega) hanalog) <|
    Eq.trans (readU16_checked_right (by omega) hfl (by norm_num) (by omega) hdigital)
      ((readI32_readsIf (by omega) hfl).bind_error (by omega))

theorem decodeConfig_of_rate_ne (hlen : 24 ≤ h.frameLength) (hne : beAt img (p + 20) 4 ≠ 3000) :
    decodeConfig img p h = .error ⟨.protocolMismatch, p⟩ :=
  Eq.trans (readU16_checked_right (by omega) hfl (by norm_num) (by omega) hanalog) <|
    Eq.trans (readU16_checked_right (by omega) hfl (by norm_num) (by omega) hdigital)
      (readI32_checked_wrong (by omega) hfl (by omega) hne)

end

end

/-- Settles O31: one lemma per check, in the order of the fields. -/
theorem cfgRejectsWrongFixedBlock : Obligations.CfgRejectsWrongFixedBlock := by
  intro img p h s hfl raised
  refine ⟨fun hcut => exec_cfg_of_error (decodeConfig_of_analog_cut hfl hcut), fun hlen => ⟨fun hne =>
    exec_cfg_of_error (decodeConfig_of_analog_ne hfl hlen hne), fun hanalog => ⟨fun hcut =>
    exec_cfg_of_error (decodeConfig_of_digital_cut hfl hanalog hlen hcut), fun hlen => ⟨fun hne =>
    exec_cfg_of_error (decodeConfig_of_digital_ne hfl hanalog hlen hne), fun hdigital => ⟨fun hcut =>
    exec_cfg_of_error (decodeConfig_of_rate_cut hfl hanalog hdigital hlen hcut), fun hlen hne =>
    exec_cfg_of_error (decodeConfig_of_rate_ne hfl hanalog hdigital hlen hne)⟩⟩⟩⟩⟩

/-! The name that stands at an offset (R103). -/

/-- The element behind what `takeWhile` keeps is one that fails the test. -/
theorem getElem?_length_takeWhile {α : Type} {q : α → Bool} {l : List α} (h : (l.takeWhile q).length < l.length) :
    ∃ x, l[(l.takeWhile q).length]? = some x ∧ q x = false := by
  induction l with
  | nil => cases h
  | cons x l ih =>
    cases hq : q x with
    | false => exact ⟨x, by simp [hq], hq⟩
    | true =>
      rw [List.takeWhile_cons_of_pos hq] at h ⊢
      exact ih (Nat.lt_of_succ_lt_succ h)

section
variable {img : List Byte} {a : Nat}

theorem nameAt_length_le : (nameAt img a).length ≤ 21 :=
  (List.takeWhile_prefix _).length_le.trans (List.length_take_le _ _)

theorem standsAt_nameAt : StandsAt img a (nameAt img a) := (List.takeWhile_prefix _).trans (List.take_prefix _ _)

theorem nameAt_byte_ne {u : Nat} (hu : u < (nameAt img a).length) : img[a + u]? ≠ some 0x00#8 := by
  rw [getElem?_of_standsAt standsAt_nameAt hu, List.getElem?_eq_getElem hu]
  have hne := List.mem_takeWhile_imp (List.getElem_mem hu)
  simpa using hne

/-- A name shorter than 21 bytes that does not end with the image ends at a terminator. -/
theorem nameAt_terminated (hshort : (nameAt img a).length < 21) (himg : a + (nameAt img a).length < img.length) :
    img[a + (nameAt img a).length]? = some 0x00#8 := by
  have hlt : (nameAt img a).length < ((img.drop a).take 21).length := by
    rw [List.length_take, List.length_drop]
    omega
  obtain ⟨b, hb, hzero⟩ := getElem?_length_takeWhile hlt
  rw [← List.getElem?_drop, ← List.getElem?_take_of_lt hshort]
  exact hb.trans (congrArg some (by simpa using hzero))

end

/-- NAME's bytes at `a` lie before `stop`: those of the name and its terminator, at most 21 (R193). -/
def NameFits (img : List Byte) (stop a : Nat) : Prop := a + min ((nameAt img a).length + 1) 21 ≤ stop

section
variable {img : List Byte} {p fl : Nat}

/-- NAME returns the name that stands at its offset exactly when its bytes lie in the frame (R103, R193). -/
theorem readName_readsIf {a : Nat} (hp : p ≤ a) (hfl : p + fl ≤ img.length) :
    ReadsIf ⟨.insufficientLength, p⟩ (NameFits img (p + fl) a) (nameAt img a, afterName img a)
      (readName img p fl a) := by
  have hmax : (nameAt img a).length ≤ 21 := nameAt_length_le
  have hslice : slice img a (nameAt img a).length = nameAt img a := slice_of_standsAt standsAt_nameAt
  have hne : ∀ u, u < (nameAt img a).length → img[a + u]? ≠ some 0x00#8 := fun _ => nameAt_byte_ne
  unfold NameFits afterName
  rcases hmax.lt_or_eq with hshort | hfull
  · refine ⟨fun hfits => ?_, fun hcut => readName_of_frame_end hp hfl (by omega) (by omega) hne⟩
    have hin : a + (nameAt img a).length < p + fl := by omega
    have hread := readName_of_terminator hp hfl (by omega) hin (nameAt_terminated hshort (by omega)) hne
    rwa [hslice] at hread
  · rw [hfull] at hslice hne ⊢
    refine ⟨fun hfits => ?_, fun hcut => readName_of_frame_end (t := 20) hp hfl le_rfl (by omega) fun u hu =>
      hne u (by omega)⟩
    rw [readName_of_no_terminator hp hfl (by omega) hne, hslice]

/-! What CFG reads behind the fixed block, where it stands (R102, R192 to R196). -/

theorem le_nameStart (img : List Byte) (p : Nat) : ∀ k, p ≤ nameStart img p k
  | 0 => Nat.le_add_right p 48
  | k + 1 => by
    have ih := le_nameStart img p k
    rw [nameStart, afterName]
    omega

/-- The six analog names, which follow the station name (R195). -/
def analogNamesAt (img : List Byte) (p : Nat) : PerChannel (List Byte) :=
  PerChannel.ofFn fun c => nameAt img (nameStart img p (c.index + 1))

/-- The six scalars (R112, R192). -/
def scalarsAt (img : List Byte) (p : Nat) : PerChannel F32 :=
  PerChannel.ofFn fun c => BitVec.ofNat 32 (beAt img (p + 24 + 4 * c.index) 4)

/-- The configuration whose fields stand at the offsets of R102 behind a right fixed block. -/
def configAt (img : List Byte) (p : Nat) (h : Header) : ConfigurationFrame where
  header := h
  analogCount := 6#16
  digitalCount := 0#16
  sampleRate := 3000#32
  scalar := scalarsAt img p
  stationName := nameAt img (nameStart img p 0)
  analogName := analogNamesAt img p
  cell := makeCell (scalarsAt img p) (analogNamesAt img p)

variable (hfl : p + fl ≤ img.length)
include hfl

theorem readScalars_readsIf :
    ReadsIf ⟨.insufficientLength, p⟩ (48 ≤ fl) (scalarsAt img p) (readPerChannel (readScalar img p fl)) := by
  have hseq := readPerChannel_readsIf (t := scalarsAt img p) fun c =>
    perChannel_get_ofFn (fun c => BitVec.ofNat 32 (beAt img (p + 24 + 4 * c.index) 4)) c ▸
      readF32_readsIf (p := p) (fl := fl) (a := p + 24 + 4 * c.index) (by omega) hfl
  refine hseq.congr ⟨fun hd => ?_, fun h48 c => ?_⟩
  · have hlast : p + 24 + 4 * 5 + 4 ≤ p + fl := hd .vc
    omega
  · have hc := channel_index_le c
    omega

theorem readNames_readsIf :
    ReadsIf ⟨.insufficientLength, p⟩ (∀ c : Channel, NameFits img (p + fl) (nameStart img p (c.index + 1)))
      (analogNamesAt img p, nameStart img p 7) (readNames img p fl (nameStart img p 1)) := by
  have hname := fun k => readName_readsIf (le_nameStart img p k) hfl
  have hseq : ReadsIf _ _ (analogNamesAt img p, nameStart img p 7) (readNames img p fl (nameStart img p 1)) :=
    (hname 1).bind fun _ => (hname 2).bind fun _ => (hname 3).bind fun _ => (hname 4).bind fun _ =>
      (hname 5).bind fun _ => (hname 6).bind_last rfl
  exact hseq.congr (forall_channel_iff (d := fun c => NameFits img (p + fl) (nameStart img p (c.index + 1))))

end

theorem exists_channel_index : ∀ {i : Nat}, i < 6 → ∃ c : Channel, c.index = i
  | 0, _ => ⟨.ia, rfl⟩
  | 1, _ => ⟨.ib, rfl⟩
  | 2, _ => ⟨.ic, rfl⟩
  | 3, _ => ⟨.va, rfl⟩
  | 4, _ => ⟨.vb, rfl⟩
  | 5, _ => ⟨.vc, rfl⟩

/-- The scalars, the station name and the analog names are all that CFG reads behind the fixed block (R102, R201). -/
theorem configFits_iff {img : List Byte} {p fl : Nat} :
    configFits img p fl ↔ 48 ≤ fl ∧ NameFits img (p + fl) (nameStart img p 0) ∧
      ∀ c : Channel, NameFits img (p + fl) (nameStart img p (c.index + 1)) := by
  constructor
  · rintro ⟨h48, hnames⟩
    refine ⟨h48, hnames 0 (by omega), fun c => hnames _ ?_⟩
    have hc := channel_index_le c
    omega
  · rintro ⟨h48, hstation, hanalog⟩
    refine ⟨h48, fun k hk => ?_⟩
    cases k with
    | zero => exact hstation
    | succ i =>
      obtain ⟨c, rfl⟩ := exists_channel_index (Nat.lt_of_succ_lt_succ hk)
      exact hanalog c

/-- With a right fixed block CFG decodes exactly when all it reads lies in the frame (R190, R201). -/
theorem decodeConfig_readsIf {img : List Byte} {p : Nat} {h : Header} (hfl : p + h.frameLength ≤ img.length)
    (hlen : 24 ≤ h.frameLength) (hanalog : beAt img (p + 16) 2 = 6) (hdigital : beAt img (p + 18) 2 = 0)
    (hrate : beAt img (p + 20) 4 = 3000) :
    ReadsIf ⟨.insufficientLength, p⟩ (configFits img p h.frameLength) (configAt img p h) (decodeConfig img p h) := by
  have hblock : decodeConfig img p h = _ :=
    Eq.trans (readU16_checked_right (by omega) hfl (by norm_num) (by omega) hanalog) <|
      Eq.trans (readU16_checked_right (by omega) hfl (by norm_num) (by omega) hdigital)
        (readI32_checked_right (by omega) hfl (by omega) hrate)
  rw [hblock]
  exact ReadsIf.congr ((readScalars_readsIf hfl).bind fun _ =>
    (readName_readsIf (le_nameStart img p 0) hfl).bind fun _ => (readNames_readsIf hfl).bind_last rfl)
    configFits_iff.symm

/-- Settles O32: what `decodeConfig_readsIf` decodes is committed, and what it raises is taken. -/
theorem cfgDecodesExactlyWhenNamesFit : Obligations.CfgDecodesExactlyWhenNamesFit := by
  intro img p h s hlen hfl hanalog hdigital hrate
  obtain ⟨hdecodes, hraises⟩ := decodeConfig_readsIf hfl hlen hanalog hdigital hrate
  refine ⟨fun hfits => ⟨configAt img p h, exec_cfg_of_ok (hdecodes hfits), rfl, rfl, rfl, rfl, ?_, rfl, ?_, ?_, ?_, rfl⟩,
    fun hcut => exec_cfg_of_error (hraises hcut)⟩
  · exact perChannel_get_ofFn _
  · exact perChannel_get_ofFn _
  · exact makeCell_analogDef_get _ _
  · exact makeCell_phasorDef_get _ _

end Sys2Proof.Machine
end

section
/-! PROOF. The data frame (44_data_frame): ROW, NEWFRAME, INPUTS and the row timestamps, APPLY and the two ways it
completes a frame, and DATA as fifty rows run one after another. -/

namespace Sys2Proof.Machine

/-! Row timestamps (R215, R225). -/

theorem timeOffset_le {i : Nat} (hi : i < 50) : timeOffset i ≤ 16333333 := by
  unfold timeOffset
  omega

/-- The offset is `i × 10^9 / 3000` to the nearest integer: three times it is within 3/2 of `i × 10^6`. -/
theorem timeOffset_nearest (i : Nat) :
    2 * (3 * timeOffset i) < 2 * (i * 1000000) + 3 ∧ 2 * (i * 1000000) < 2 * (3 * timeOffset i) + 3 := by
  unfold timeOffset
  omega

theorem timeOffset_succ (i : Nat) :
    timeOffset (i + 1) = timeOffset i + 333333 ∨ timeOffset (i + 1) = timeOffset i + 333334 := by
  unfold timeOffset
  omega

/-- While the last row's timestamp does not wrap, no row's does (R91, R215). -/
theorem rowTimestamp_toInt {ts0 : I64} {i : Nat} (hi : i < 50) (hlast : ts0.toInt + 16333333 < 2 ^ 63) :
    (rowTimestamp ts0 i).toInt = ts0.toInt + timeOffset i := by
  have hoff := timeOffset_le hi
  have hmin := BitVec.le_toInt ts0
  have hoffset : (BitVec.ofNat 64 (timeOffset i)).toInt = timeOffset i := by
    rw [BitVec.toInt_ofNat']
    exact Int.bmod_eq_of_le (by omega) (by omega)
  rw [rowTimestamp, BitVec.toInt_add, hoffset]
  exact Int.bmod_eq_of_le (by omega) (by omega)

/-- Settles O36: the timestamps differ as the offsets do, which are the nearest integers. -/
theorem rowTimestampsAreEvenlySpaced : Obligations.RowTimestampsAreEvenlySpaced := by
  refine ⟨fun i _ => timeOffset_nearest i, fun ts0 i hi hlast => ?_⟩
  rw [rowTimestamp_toInt (by omega) hlast, rowTimestamp_toInt (by omega) hlast]
  rcases timeOffset_succ i with h | h <;> omega

/-! One row of the packet (R213, R214). -/

/-- The six words that stand at the row's offset. -/
def packetRow (img : List Byte) (p i : Nat) : PerChannel I32 :=
  PerChannel.ofFn fun c => BitVec.ofNat 32 (beAt img (p + rowOff i + 4 * c.index) 4)

theorem packetRow_get (img : List Byte) (p i : Nat) (c : Channel) :
    (packetRow img p i).get c = BitVec.ofNat 32 (beAt img (p + rowOff i + 4 * c.index) 4) := perChannel_get_ofFn _ c

/-- ROW reads them in every frame as long as a data packet (R109, R211). -/
theorem readRow_eq_packetRow {img : List Byte} {p fl i : Nat} (hlen : 1224 ≤ fl) (hfl : p + fl ≤ img.length)
    (hi : i < 50) : readRow img p fl i = .ok (packetRow img p i) := by
  refine readPerChannel_eq_ok fun c => ?_
  have hc := channel_index_le c
  have hoff := rowOff_eq i
  rw [packetRow_get]
  exact (readI32_readsIf (by omega) hfl).1 (by omega)

theorem exec_row_of_ok {img : List Byte} {p i : Nat} {raw : PerChannel I32} {s : State}
    (h : readRow img p dataFrameLen i = .ok raw) : exec (.row img p i) s = .next (s.setResult (.raw raw)) :=
  congrArg (finishValue s .raw) h

theorem toNat_append_eq_add {m n : Nat} (x : BitVec m) (y : BitVec n) :
    (x ++ y).toNat = x.toNat * 2 ^ n + y.toNat := by
  rw [BitVec.toNat_append, ← Nat.shiftLeft_add_eq_or_of_lt y.isLt, Nat.shiftLeft_eq]

/-- The word that four bytes spell, most significant first, is their concatenation (R72). -/
theorem ofNat_beNat_four (b0 b1 b2 b3 : Byte) : BitVec.ofNat 32 (beNat [b0, b1, b2, b3]) = b0 ++ b1 ++ b2 ++ b3 := by
  have h0 := b0.isLt
  have h1 := b1.isLt
  have h2 := b2.isLt
  have h3 := b3.isLt
  apply BitVec.eq_of_toNat_eq
  simp only [toNat_append_eq_add, BitVec.toNat_ofNat, beNat, List.length_cons, List.length_nil]
  omega

/-- Four bytes the image holds one after another are the four it holds there. -/
theorem take_four_of_getElem? {img : List Byte} {a : Nat} {b0 b1 b2 b3 : Byte} (h0 : img[a]? = some b0)
    (h1 : img[a + 1]? = some b1) (h2 : img[a + 2]? = some b2) (h3 : img[a + 3]? = some b3) :
    (img.drop a).take 4 = [b0, b1, b2, b3] := by
  apply List.ext_getElem?
  intro n
  rw [List.getElem?_take, List.getElem?_drop]
  match n with
  | 0 => exact h0
  | 1 => exact h1
  | 2 => exact h2
  | 3 => exact h3
  | n + 4 => simp

/-- Settles O37: ROW reads the word at each channel's offset, which is its four bytes joined. -/
theorem rowReadsSixSignedWords : Obligations.RowReadsSixSignedWords := by
  intro img p i s hi hfit
  refine ⟨packetRow img p i, exec_row_of_ok (readRow_eq_packetRow le_rfl hfit hi), ?_⟩
  intro c b0 b1 b2 b3 h0 h1 h2 h3
  have hbytes := take_four_of_getElem? h0 h1 h2 h3
  rw [packetRow_get, beAt, rowOff, hbytes, ofNat_beNat_four]

/-! NEWFRAME and INPUTS (R216, R220). -/

/-- Settles O38: the record is `newFrame`, field by field. -/
theorem newframeIsUnestimated : Obligations.NewframeIsUnestimated := by
  intro h i ts raw s
  refine ⟨newFrame s.haveCfg h i ts raw, rfl, rfl, decide_eq_true_iff, rfl, ?_, rfl, rfl, rfl, fun c => ?_⟩
  · exact Option.isSome_iff_ne_none
  · have hphasor : (newFrame s.haveCfg h i ts raw).phasor.get c = ⟨F64.ofInt (raw.get c).toInt, .nan⟩ :=
      perChannel_get_ofFn _ c
    rw [hphasor]
    exact ⟨rfl, rfl⟩

theorem inputs_get (s : State) (f : DataFrame) (c : Channel) :
    (inputs s f).get c = inputOf s.impl.estInputScaled s.fr.cfg (f.analogRaw.get c) c := perChannel_get_ofFn _ c

/-- Settles O39: one equation of `inputOf` per case of R220. -/
theorem inputsApplyScalars : Obligations.InputsApplyScalars := by
  intro f s
  refine ⟨inputs s f, rfl, fun hunscaled c => ?_, fun hscaled cf hcfg c => ?_⟩
  · rw [inputs_get, hunscaled]
    rfl
  · rw [inputs_get, hscaled, hcfg]
    rfl

/-! OVERWRITE and COPYFORWARD (R221, R222). -/

theorem overwriteFrame_phasor_get (f : DataFrame) (est : PhaseEstimate) (c : Channel) :
    (overwriteFrame f est).phasor.get c = ⟨est.magnitude.get c, est.angle.get c⟩ := perChannel_get_ofFn _ c

/-- Settles O40: the frame is `overwriteFrame`, whose cell is retained. -/
theorem overwriteWritesEstimateAndRetainsCell : Obligations.OverwriteWritesEstimateAndRetainsCell :=
  fun f est _ => ⟨overwriteFrame f est, rfl, rfl, overwriteFrame_phasor_get f est⟩

/-- Settles O41: COPYFORWARD's frame is `copyForward`, and it writes the result register only. -/
theorem copyforwardCopiesCell : Obligations.CopyforwardCopiesCell := fun _ _ _ => rfl

/-! APPLY (R218, R219). -/

/-- A frame has six slots of each kind, whatever they hold (R36). -/
theorem slotCountsWrong_eq_false (f : DataFrame) : slotCountsWrong f = false := rfl

/-- The tests of R218 with a bundle in force, as they can come out. -/
theorem applySkips_some {b : ParamBundle} {f : DataFrame} :
    applySkips (some b) f = true ↔
      b.calculatePhaseEstimates = false ∨ f.hasCell = false ∨ f.timestamp.toInt ≤ 0 := by
  simp [applySkips, slotCountsWrong_eq_false, or_assoc]

section
variable {f : DataFrame} {s : State} {b : ParamBundle}

theorem applyEstimate_of_no_bundle (hb : s.fr.params = none) : applyEstimate f s = (f, s) := by
  simp only [applyEstimate, hb]

theorem applyEstimate_of_skips (hb : s.fr.params = some b) (hskip : applySkips (some b) f = true) :
    applyEstimate f s = (f, s) := by
  simp only [applyEstimate, hb, hskip, if_true]

/-- The step APPLY makes of a frame it does not skip. -/
def applyStep (f : DataFrame) (s : State) (b : ParamBundle) : Estimator × Option PhaseEstimate :=
  estStep Trig.block (s.fr.est.getD (estBuild Trig.block b)) (inputs s f) f.timestamp

theorem lazyEstimator_eq_getD (s : State) (b : ParamBundle) :
    lazyEstimator s b = s.fr.est.getD (estBuild Trig.block b) := by
  cases he : s.fr.est with
  | none => exact lazyEstimator_of_none b he
  | some e => exact lazyEstimator_of_some b he

theorem applyEstimate_of_not_skips (hb : s.fr.params = some b) (hskip : ¬applySkips (some b) f = true) :
    applyEstimate f s = applyAnswer b (applyStep f s b).2 f (s.setEst (some (applyStep f s b).1)) := by
  simp only [applyEstimate, hb, hskip, lazyEstimator_eq_getD]
  rfl

/-- A declined step with a retained cell and P3 set copies the cell forward (R222). -/
theorem applyAnswer_none_of_repeat {cell : EstimatedCell} (hcell : s.fr.lastEstCell = some cell)
    (hrepeat : b.repeatLastCalculatedValueWhenDownSampling = true) :
    applyAnswer b none f s = (copyForward f cell, s) := by
  simp only [applyAnswer, hcell, hrepeat, if_true]

/-- Any other declined step leaves the frame as it is (R218). -/
theorem applyAnswer_none_of_not_repeat
    (h : s.fr.lastEstCell = none ∨ b.repeatLastCalculatedValueWhenDownSampling = false) :
    applyAnswer b none f s = (f, s) := by
  cases hcell : s.fr.lastEstCell with
  | none => simp only [applyAnswer, hcell]
  | some cell =>
    have hrepeat : b.repeatLastCalculatedValueWhenDownSampling = false := h.resolve_left (by simp [hcell])
    simp only [applyAnswer, hcell, hrepeat]
    rfl

theorem exec_apply_of_eq {g : DataFrame} {t : State} (h : applyEstimate f s = (g, t)) :
    exec (.apply f) s = .next (t.setResult (.frame g)) :=
  congrArg (fun r : DataFrame × State => Host.Outcome.next (r.2.setResult (.frame r.1))) h

end

/-- Settles O42: with no bundle APPLY stops at the first test, with one at the test that holds. -/
theorem applySkipsLeaveEstimatorAlone : Obligations.ApplySkipsLeaveEstimatorAlone := by
  intro f s hskip
  cases hb : s.fr.params with
  | none => exact exec_apply_of_eq (applyEstimate_of_no_bundle hb)
  | some b =>
    refine exec_apply_of_eq (applyEstimate_of_skips hb (applySkips_some.mpr ?_))
    simpa [hb] using hskip

/-- Settles O43: past the tests APPLY is one step and its answer, of which there are three cases. -/
theorem applyStepsEstimatorOnce : Obligations.ApplyStepsEstimatorOnce := by
  intro f s b hb hcalc hcell hts r
  have hskip : ¬applySkips (some b) f = true := by
    rw [applySkips_some, hcalc, hcell]
    simpa using hts
  have happly : applyEstimate f s = applyAnswer b r.2 f (s.setEst (some r.1)) := applyEstimate_of_not_skips hb hskip
  refine ⟨fun est hest => ?_, fun hdecline cell hret hrepeat => ?_, fun hdecline hkeep => ?_⟩
  · rw [hest] at happly
    exact ⟨(overwriteFrame f est).phasor, overwriteFrame_phasor_get f est, exec_apply_of_eq happly⟩
  · rw [hdecline, applyAnswer_none_of_repeat (s := s.setEst (some r.1)) hret hrepeat] at happly
    exact exec_apply_of_eq happly
  · rw [hdecline, applyAnswer_none_of_not_repeat (s := s.setEst (some r.1)) hkeep] at happly
    exact exec_apply_of_eq happly

/-! What APPLY keeps of its frame (R218). -/

/-- An answer writes the estimate's part of the frame only. -/
theorem applyAnswer_keeps (b : ParamBundle) (r : Option PhaseEstimate) (f : DataFrame) (s : State) :
    (applyAnswer b r f s).1 = { f with
      phasor := (applyAnswer b r f s).1.phasor
      frequency := (applyAnswer b r f s).1.frequency
      dFdt := (applyAnswer b r f s).1.dFdt } := by
  cases r with
  | some est => rfl
  | none =>
    unfold applyAnswer
    cases s.fr.lastEstCell with
    | none => rfl
    | some cell => cases b.repeatLastCalculatedValueWhenDownSampling <;> rfl

/-- APPLY writes the estimate's part of the frame only. -/
theorem applyEstimate_keeps (f : DataFrame) (s : State) :
    (applyEstimate f s).1 = { f with
      phasor := (applyEstimate f s).1.phasor
      frequency := (applyEstimate f s).1.frequency
      dFdt := (applyEstimate f s).1.dFdt } := by
  rcases applyEstimate_cases f s with h | ⟨b, -, -, h⟩ <;> rw [h]
  exact applyAnswer_keeps b _ f _

/-- What stands in the frame of a row, whatever the estimator makes of it (R216, R218). -/
theorem rowFrame_keeps (h : Header) (ts0 : I64) (i : Nat) (raw : PerChannel I32) (s : State) :
    (rowFrame h ts0 i raw s).initial = decide (i = 0) ∧
      (rowFrame h ts0 i raw s).timestamp = rowTimestamp ts0 i ∧
      (rowFrame h ts0 i raw s).hasCell = s.fr.cfg.isSome ∧ (rowFrame h ts0 i raw s).analogRaw = raw := by
  rw [rowFrame, applyEstimate_keeps]
  exact ⟨rfl, rfl, rfl, rfl⟩

/-! The rows of a packet one after another (R210, R217). -/

/-- Rows listed end to end are expanded one list after the other. -/
theorem expandRows_append (img : List Byte) (p : Nat) (h : Header) (ts0 : I64) (rows rows' : List Nat) (s : State) :
    expandRows img p h ts0 (rows ++ rows') s =
      expandRows img p h ts0 rows s >>= expandRows img p h ts0 rows' := by
  induction rows generalizing s with
  | nil => rfl
  | cons i rest ih => simp only [List.cons_append, expandRows, ih, bind_assoc]

/-- The packet's epoch (R105, R212). -/
def packetEpoch (img : List Byte) (p : Nat) : I64 := BitVec.ofNat 64 (beAt img (p + 16) 8)

/-- The state after the first `n` rows. -/
def afterRows (img : List Byte) (p : Nat) (h : Header) (s : State) : Nat → State
  | 0 => s
  | n + 1 => sampleFrame h (packetEpoch img p) n (packetRow img p n) (afterRows img p h s n)

/-- NEWFRAME's record for row `i` (R216). -/
def packetRecord (img : List Byte) (p : Nat) (h : Header) (s : State) (i : Nat) : DataFrame :=
  newFrame (afterRows img p h s i).haveCfg h i (rowTimestamp (packetEpoch img p) i) (packetRow img p i)

/-- The frame row `i` retains and emits: what APPLY leaves of its record. -/
def packetFrame (img : List Byte) (p : Nat) (h : Header) (s : State) (i : Nat) : DataFrame :=
  rowFrame h (packetEpoch img p) i (packetRow img p i) (afterRows img p h s i)

/-- The frames of the first `n` rows, in row order. -/
def packetFrames (img : List Byte) (p : Nat) (h : Header) (s : State) (n : Nat) : List DataFrame :=
  (List.range n).map (packetFrame img p h s)

section
variable {img : List Byte} {p : Nat} {h : Header}

theorem packetFrames_length (s : State) (n : Nat) : (packetFrames img p h s n).length = n := by
  simp [packetFrames]

theorem packetFrames_succ (s : State) (n : Nat) :
    packetFrames img p h s (n + 1) = packetFrames img p h s n ++ [packetFrame img p h s n] := by
  simp [packetFrames, List.range_succ]

theorem packetFrames_getElem? (s : State) {n i : Nat} (hi : i < n) :
    (packetFrames img p h s n)[i]? = some (packetFrame img p h s i) := by
  simp [packetFrames, hi]

/-- One row more writes the estimator, the two retained records and its event (R217, R223, R224). -/
theorem afterRows_succ (s : State) (n : Nat) :
    afterRows img p h s (n + 1) = { afterRows img p h s n with
      fr := { (afterRows img p h s n).fr with
        est := (afterRows img p h s (n + 1)).fr.est
        lastFrame := (afterRows img p h s (n + 1)).fr.lastFrame
        lastEstCell := (afterRows img p h s (n + 1)).fr.lastEstCell }
      out := (afterRows img p h s n).out ++ [.receivedDataFrame (packetFrame img p h s n)] } :=
  sampleFrame_frame h (packetEpoch img p) n (packetRow img p n) (afterRows img p h s n)

/-- The first `n` rows write the estimator, the two retained records and one event a row. -/
theorem afterRows_frame (s : State) (n : Nat) :
    afterRows img p h s n = { s with
      fr := { s.fr with
        est := (afterRows img p h s n).fr.est
        lastFrame := (afterRows img p h s n).fr.lastFrame
        lastEstCell := (afterRows img p h s n).fr.lastEstCell }
      out := s.out ++ (packetFrames img p h s n).map .receivedDataFrame } := by
  induction n with
  | zero => simp [afterRows, packetFrames]
  | succ n ih =>
    rw [afterRows_succ, packetFrames_succ, List.map_append, ← List.append_assoc, ih]
    rfl

/-- The retained frame is the last row's (R223). -/
theorem afterRows_lastFrame (s : State) (n : Nat) :
    (afterRows img p h s (n + 1)).fr.lastFrame = (packetFrames img p h s (n + 1)).getLast? := by
  rw [packetFrames_succ, List.getLast?_concat]
  rfl

theorem afterRows_cfg (s : State) (n : Nat) : (afterRows img p h s n).fr.cfg = s.fr.cfg := by
  rw [afterRows_frame]

theorem afterRows_result (s : State) (n : Nat) : (afterRows img p h s n).result = s.result := by
  rw [afterRows_frame]

theorem afterRows_continues (s : State) (n : Nat) : s.Continues (afterRows img p h s n) := by
  induction n with
  | zero => exact .of_eq
  | succ n ih => exact ih.trans (sampleFrame_continues h (packetEpoch img p) n (packetRow img p n) _)

section
variable (hlen : 1224 ≤ h.frameLength) (hfl : p + h.frameLength ≤ img.length)
include hlen hfl

/-- The rows of a whole packet decode, and the loop leaves what they make one after another. -/
theorem expandRows_range {n : Nat} (hn : n ≤ 50) (s : State) :
    expandRows img p h (packetEpoch img p) (List.range n) s = .ok (afterRows img p h s n) := by
  induction n with
  | zero => rfl
  | succ n ih =>
    rw [List.range_succ, expandRows_append, ih (by omega), except_ok_bind, expandRows,
      readRow_eq_packetRow hlen hfl (by omega), except_ok_bind]
    rfl

/-- A data packet long enough decodes (R210, R211). -/
theorem dataFrame_eq_afterRows (s : State) : dataFrame img p h s = .ok (afterRows img p h s 50) := by
  have hepoch : readI64 img p h.frameLength (p + 16) = .ok (packetEpoch img p) :=
    ((memRead_readsIf 8 (by omega) hfl).map _).1 (by omega)
  have hrequire : decide (dataFrameLen ≤ h.frameLength) = true := decide_eq_true hlen
  rw [dataFrame, hrequire, hepoch]
  exact expandRows_range hlen hfl le_rfl s

end

/-- A shorter one raises before anything is read (R211). -/
theorem dataFrame_of_short (hshort : h.frameLength < 1224) (s : State) :
    dataFrame img p h s = .error ⟨.insufficientLength, p⟩ := by
  have hrequire : decide (dataFrameLen ≤ h.frameLength) = false := decide_eq_false (Nat.not_le_of_lt hshort)
  rw [dataFrame, hrequire]
  rfl

theorem exec_data_of_error {s : State} {r : Raise} (hx : dataFrame img p h s = .error r) :
    exec (.data img p h) s = .next (takeException r s) :=
  congrArg (finish s) hx

theorem exec_data_of_ok {s t : State} (hx : dataFrame img p h s = .ok t) : exec (.data img p h) s = .next t :=
  congrArg (finish s) hx

/-- What stands in frame `i` of a packet (R213, R215, R216). -/
theorem packetFrame_keeps (s : State) (i : Nat) :
    (packetFrame img p h s i).header = h ∧ (packetFrame img p h s i).initial = decide (i = 0) ∧
      (packetFrame img p h s i).timestamp = rowTimestamp (packetEpoch img p) i ∧
      (packetFrame img p h s i).hasCell = s.fr.cfg.isSome ∧
      (packetFrame img p h s i).analogRaw = packetRow img p i := by
  refine ⟨rowFrame_header h _ i _ _, ?_⟩
  rw [← afterRows_cfg (img := img) (p := p) (h := h) s i]
  exact rowFrame_keeps h _ i _ _

end

/-- Settles O34: the length check comes first. -/
theorem shortDataFrameRaises : Obligations.ShortDataFrameRaises :=
  fun _ _ _ s hshort => exec_data_of_error (dataFrame_of_short hshort s)

/-- Settles O33: the state after DATA is the one after fifty rows, and row `i`'s frame is what APPLY leaves of
NEWFRAME's record in the state after the rows before it. -/
theorem dataEmitsFiftyTimestampedFrames : Obligations.DataEmitsFiftyTimestampedFrames := by
  intro img p h s hlen hfl
  refine ⟨afterRows img p h s 50, packetFrames img p h s 50, exec_data_of_ok (dataFrame_eq_afterRows hlen hfl s),
    packetFrames_length s 50, ?_, fun i hi => ?_, (afterRows_continues s 50).const,
    afterRows img p h s, rfl, rfl, fun i hi => ?_⟩
  · rw [← afterRows_lastFrame]
    exact afterRows_frame s 50
  · obtain ⟨hheader, hinitial, hts, hcell, hraw⟩ := packetFrame_keeps (img := img) (p := p) (h := h) s i
    refine ⟨_, packetFrames_getElem? s hi, hheader, by rw [hinitial, decide_eq_true_iff], hts, hcell, fun c => ?_⟩
    rw [hraw]
    exact packetRow_get img p i c
  · refine ⟨packetRow img p i, packetRecord img p h s i, packetFrame img p h s i,
      (applyEstimate (packetRecord img p h s i) (afterRows img p h s i)).2, packetRow_get img p i, rfl,
      exec_apply_of_eq rfl, ?_, packetFrames_getElem? s hi, rfl⟩
    rw [applyEstimate_frame]
    exact afterRows_result s i

end Sys2Proof.Machine
end

section
/-! PROOF. The estimator (45_estimator): what each of its operations leaves, one step of it, and its runs from
construction on. -/

namespace Sys2Proof.Machine

/-! Construction and EST.RESET (R241 to R245, R264). -/

theorem exec_estNew_of_valid {b : ParamBundle} {s : State} (h : validBundle s.impl.maxWindow b = true) :
    exec (.estNew b) s = .next (s.setEst (some (estBuild Trig.block b))) := by
  simp only [exec, execEstNew, estNew, if_pos h]

theorem exec_estNew_of_invalid {b : ParamBundle} {s : State} (h : ¬validBundle s.impl.maxWindow b = true) :
    exec (.estNew b) s = .next (commandError .invalidParameter s) := by
  simp only [exec, execEstNew, estNew, if_neg h]

/-- The constants that hang on the nominal frequency (R243). -/
theorem estConstants_frequencies (T : Trig) (b : ParamBundle) :
    (estConstants T b).fNom = (if b.nominalFrequency = .hz60 then F64.ofInt 60 else F64.ofInt 50) ∧
      (estConstants T b).fLo = (if b.nominalFrequency = .hz60 then F64.ofInt 54 else F64.ofInt 45) ∧
      (estConstants T b).fHi = (if b.nominalFrequency = .hz60 then F64.ofInt 66 else F64.ofInt 55) := by
  simp only [estConstants, decide_eq_true_eq, and_self]

/-- A table of R244 at a place inside the window. -/
theorem getElem?_map_range {n N : Nat} (f : Nat → F64) (h : n < N) : ((List.range N).map f)[n]? = some (f n) := by
  rw [List.getElem?_map, List.getElem?_range h, Option.map_some]

/-- Settles O45: the check is legality; the estimator built is `estBuild`, constant by constant. -/
theorem estNewDerivesConstants : Obligations.EstNewDerivesConstants := by
  refine fun b s => ⟨fun hlegal => ⟨estBuild Trig.block b, exec_estNew_of_valid (validBundle_iff.mpr hlegal), ?_⟩,
    fun hillegal => exec_estNew_of_invalid fun hvalid => hillegal (validBundle_iff.mp hvalid)⟩
  obtain ⟨hnom, hlo, hhi⟩ := estConstants_frequencies Trig.block b
  dsimp only
  rw [← samplesPerCycle_eq]
  refine ⟨hnom, rfl, rfl, rfl, rfl, rfl, rfl, rfl, rfl, rfl, rfl, rfl, rfl, hlo, hhi, fun n hn => ?_, fun c => ?_,
    rfl, rfl, rfl, rfl, rfl, rfl, rfl, rfl⟩
  · exact ⟨getElem?_map_range _ hn, getElem?_map_range _ hn⟩
  · exact ⟨perChannel_get_ofFn _ c, perChannel_get_ofFn _ c, perChannel_get_ofFn _ c⟩

/-- Settles O50: EST.RESET leaves the initial variable state of the constants it keeps. -/
theorem estResetRestoresDefaults : Obligations.EstResetRestoresDefaults := fun _ _ => rfl

/-! The accumulators that each operation leaves, lane by lane (R247, R249, R251). -/

section
variable (e : Estimator) (x old : PerChannel F64) (c : Channel)

@[simp] theorem fill_accRe : (fill e x).vars.accRe.get c =
    F64.add (e.vars.accRe.get c) (F64.mul (x.get c) (entry e.const.cosT e.vars.total)) := perChannel_get_ofFn _ c

@[simp] theorem fill_accIm : (fill e x).vars.accIm.get c =
    F64.sub (e.vars.accIm.get c) (F64.mul (x.get c) (entry e.const.sinT e.vars.total)) := perChannel_get_ofFn _ c

@[simp] theorem recompute_accRe : (recompute e).vars.accRe.get c =
    dftRe (e.vars.buf.get c) e.const.cosT e.vars.wr e.const.N := perChannel_get_ofFn _ c

@[simp] theorem recompute_accIm : (recompute e).vars.accIm.get c =
    dftIm (e.vars.buf.get c) e.const.sinT e.vars.wr e.const.N := perChannel_get_ofFn _ c

@[simp] theorem reanchor_accRe : (reanchor e).vars.accRe = (recompute e).vars.accRe := rfl
@[simp] theorem reanchor_accIm : (reanchor e).vars.accIm = (recompute e).vars.accIm := rfl

@[simp] theorem slide_accRe : (slide e x old).vars.accRe.get c =
    F64.sub (F64.mul (F64.add (e.vars.accRe.get c) (F64.sub (x.get c) (old.get c))) e.const.twRe)
      (F64.mul (e.vars.accIm.get c) e.const.twIm) := perChannel_get_ofFn _ c

@[simp] theorem slide_accIm : (slide e x old).vars.accIm.get c =
    F64.add (F64.mul (F64.add (e.vars.accRe.get c) (F64.sub (x.get c) (old.get c))) e.const.twIm)
      (F64.mul (e.vars.accIm.get c) e.const.twRe) := perChannel_get_ofFn _ c

/-- Storing the sample leaves the accumulators to SLIDE. -/
@[simp] theorem storeSample_accRe : (storeSample e x).vars.accRe = e.vars.accRe := rfl
@[simp] theorem storeSample_accIm : (storeSample e x).vars.accIm = e.vars.accIm := rfl

end

section
variable (e : Estimator) (a : F64) (ts : I64)

@[simp] theorem track_accRe : (track e a ts).vars.accRe = e.vars.accRe := by rw [track_frame]
@[simp] theorem track_accIm : (track e a ts).vars.accIm = e.vars.accIm := by rw [track_frame]

end

/-- An entry inside a buffer or a table, read with any default. -/
theorem entry_eq_getD {t : List F64} {n : Nat} (h : n < t.length) (d : F64) : entry t n = t.getD n d := by
  rw [entry_of_lt h, List.getD_eq_getElem t d h]

/-- The table entry that exists is the one read. -/
theorem entry_of_getElem? {t : List F64} {n : Nat} {y : F64} (h : t[n]? = some y) : entry t n = y := by
  rw [entry, List.getD_eq_getElem?_getD, h, Option.getD_some]

/-- Settles O46: FILL's estimator, whose products use the entries found at `E.total`. -/
theorem fillAccumulatesDirectly : Obligations.FillAccumulatesDirectly := by
  intro e x s cosn sinn hcos hsin
  refine ⟨(fill e x).vars, rfl, rfl, rfl, fun c => ⟨fill_buf e x c, ?_, ?_⟩⟩
  · rw [fill_accRe, entry_of_getElem? hcos]
  · rw [fill_accIm, entry_of_getElem? hsin]

/-- Settles O47: SLIDE's estimator, lane by lane. -/
theorem slideRotatesByTwiddle : Obligations.SlideRotatesByTwiddle :=
  fun e x old _ => ⟨(slide e x old).vars, rfl, rfl, fun c => ⟨slide_accRe e x old c, slide_accIm e x old c⟩⟩

/-- A term of the direct sum, when buffer and table have an entry for every place in the window (R42, R43). -/
theorem dftTerm_eq_getD {buf table : List F64} {N n : Nat} (wr : Nat) (hbuf : buf.length = N)
    (htable : table.length = N) (hn : n < N) (d : F64) : dftTerm buf table wr N n = F64.mul (buf.getD ((wr + n) % N) d) (table.getD n d) := by
  rw [dftTerm, entry_eq_getD (by rw [hbuf]; exact Nat.mod_lt _ (by omega)) d, entry_eq_getD (by omega) d]

/-- Settles O48: under the estimator's invariant every read of the two sums is inside its list. -/
theorem recomputeSumsOldestFirst : Obligations.RecomputeSumsOldestFirst := by
  intro e s hwf
  obtain ⟨-, -, -, hcos, hsin, hbuf, -⟩ := estimator_wf_iff.mp hwf
  refine ⟨(recompute e).vars, rfl, rfl, fun c => ⟨?_, ?_⟩⟩
  · rw [recompute_accRe, dftRe]
    refine List.foldl_ext _ _ _ fun re n hn => ?_
    rw [dftTerm_eq_getD _ (hbuf c) hcos (List.mem_range.mp hn)]
  · rw [recompute_accIm, dftIm]
    refine List.foldl_ext _ _ _ fun im n hn => ?_
    rw [dftTerm_eq_getD _ (hbuf c) hsin (List.mem_range.mp hn)]

/-! TRACK (R254 to R260). -/

/-- The time step, of the 64-bit wrapped difference of the two timestamps (R91, R255). -/
theorem deltaT_eq (period : F64) (prevTs ts : I64) :
    deltaT period prevTs ts =
      let measured := F64.div (F64.ofInt ((ts.toInt - prevTs.toInt).bmod (2 ^ 64))) (F64.ofInt 1000000000)
      if F64.lt F64.zero measured = true ∧ F64.lt measured F64.one = true then measured else period := by
  simp only [deltaT, BitVec.toInt_sub, Bool.and_eq_true]

/-- With no previous phase TRACK records only (R260). -/
theorem track_of_no_phase {e : Estimator} (a : F64) (ts : I64) (h : e.vars.prevPhase = none) :
    track e a ts = ⟨e.const, { e.vars with prevPhase := some a, prevTs := some ts }⟩ := by
  simp only [track, h]

/-- With a previous phase and timestamp it smooths the clamped instantaneous frequency (R255 to R260). -/
theorem track_of_phase {e : Estimator} {ph : F64} {pts : I64} (a : F64) (ts : I64) (hph : e.vars.prevPhase = some ph)
    (hpts : e.vars.prevTs = some pts) :
    let dt := deltaT e.const.period pts ts
    let inst := clampFrequency e.const.fLo e.const.fHi (instFrequency e.const.fNom dt ph a)
    track e a ts = ⟨e.const, { smooth e.const e.vars inst dt with prevPhase := some a, prevTs := some ts }⟩ := by
  simp only [track, hph, hpts]

section
variable {k : EstConstants} {v : EstVars} (inst dt : F64)

@[simp] theorem smooth_freqSeeded : (smooth k v inst dt).freqSeeded = true := by rw [smooth_frame]

/-- The first instantaneous value is the seed (R258, R259). -/
theorem smooth_of_unseeded (h : v.freqSeeded = false) :
    (smooth k v inst dt).smoothedFreq = inst ∧ (smooth k v inst dt).rocof = F64.zero := by
  simp only [smooth, h, Bool.false_eq_true, if_false, and_self]

/-- Later values go through the two moving averages (R258, R259). -/
theorem smooth_of_seeded (h : v.freqSeeded = true) :
    (smooth k v inst dt).smoothedFreq = ema k.alphaF inst v.smoothedFreq ∧
      (smooth k v inst dt).rocof =
        ema k.alphaR (F64.div (F64.sub (smooth k v inst dt).smoothedFreq v.smoothedFreq) dt) v.rocof := by
  simp only [smooth, h, if_true, and_self]

end

/-- Settles O49: the two cases of TRACK, the second through the two cases of the smoothing. -/
theorem trackSeedsThenSmooths : Obligations.TrackSeedsThenSmooths := by
  intro e a ts s _
  refine ⟨(track e a ts).vars, rfl, congrArg Estimator.vars (track_frame e a ts), fun hnone => ?_,
    fun ph pts hph hpts => ?_⟩
  · rw [track_of_no_phase a ts hnone]
    exact ⟨rfl, rfl, rfl⟩
  · rw [track_of_phase a ts hph hpts]
    dsimp only
    rw [← deltaT_eq]
    exact ⟨smooth_freqSeeded _ _, fun hunseeded => smooth_of_unseeded _ _ hunseeded,
      fun hseeded => smooth_of_seeded _ _ hseeded⟩

end Sys2Proof.Machine

namespace Sys2Proof

/-! The order of binary64 values (R13): of two values that are no NaN. -/

section
variable {x y z : F64}

theorem F64.ne_nan_of_le (h : F64.le x y = true) : x ≠ .nan ∧ y ≠ .nan := by
  constructor <;> rintro rfl
  · cases h
  · cases x <;> cases h

theorem F64.le_self (hx : x ≠ .nan) : F64.le x x = true := by
  cases x with
  | nan => exact absurd rfl hx
  | num s m => exact decide_eq_true le_rfl

theorem F64.le_or_lt (hx : x ≠ .nan) (hy : y ≠ .nan) : F64.le x y = true ∨ F64.lt y x = true := by
  match x, y, hx, hy with
  | .num s m, .num t n, _, _ => exact (le_or_gt (F64.key s m) (F64.key t n)).imp decide_eq_true decide_eq_true

theorem F64.lt_eq_false_of_le (h : F64.le x y = true) : F64.lt y x = false := by
  match x, y, h with
  | .num s m, .num t n, h => exact decide_eq_false (not_lt_of_ge (of_decide_eq_true h))

theorem F64.le_of_le_of_lt (hxy : F64.le x y = true) (hyz : F64.lt y z = true) : F64.le x z = true := by
  match x, y, z, hxy, hyz with
  | .num s m, .num t n, .num u k, hxy, hyz =>
    exact decide_eq_true ((of_decide_eq_true hxy).trans (of_decide_eq_true hyz).le)

@[simp] theorem F64.lt_nan (x : F64) : F64.lt x .nan = false := by cases x <;> rfl
@[simp] theorem F64.nan_lt (x : F64) : F64.lt .nan x = false := rfl

end

/-! A NaN operand makes a NaN (R13). -/

@[simp] theorem F64.mul_nan (x : F64) : F64.mul x .nan = .nan := by cases x <;> rfl
@[simp] theorem F64.add_nan (x : F64) : F64.add x .nan = .nan := by cases x <;> rfl
@[simp] theorem F64.sub_nan (x : F64) : F64.sub x .nan = .nan := F64.add_nan x
@[simp] theorem F64.nan_div (x : F64) : F64.div .nan x = .nan := rfl
@[simp] theorem F64.nan_add (x : F64) : F64.add .nan x = .nan := rfl

end Sys2Proof

namespace Sys2Proof.Machine

/-! The clamp (R257). -/

section
variable {fLo fHi inst : F64}

@[simp] theorem clampFrequency_nan : clampFrequency fLo fHi .nan = .nan := by simp [clampFrequency]

theorem clampFrequency_of_below (hband : F64.le fLo fHi = true) (h : F64.lt inst fLo = true) :
    clampFrequency fLo fHi inst = fLo := by
  simp [clampFrequency, h, F64.lt_eq_false_of_le hband]

theorem clampFrequency_of_above (hband : F64.le fLo fHi = true) (h : F64.lt fHi inst = true) :
    clampFrequency fLo fHi inst = fHi := by
  simp [clampFrequency, h, F64.lt_eq_false_of_le (F64.le_of_le_of_lt hband h)]

theorem clampFrequency_of_band (hlo : F64.le fLo inst = true) (hhi : F64.le inst fHi = true) :
    clampFrequency fLo fHi inst = inst := by
  simp [clampFrequency, F64.lt_eq_false_of_le hlo, F64.lt_eq_false_of_le hhi]

/-- What is no NaN lies below the band, above it, or in it; each way the clamp gives a value of the band. -/
theorem clampFrequency_mem_band (hband : F64.le fLo fHi = true) (hinst : inst ≠ .nan) :
    F64.le fLo (clampFrequency fLo fHi inst) = true ∧ F64.le (clampFrequency fLo fHi inst) fHi = true := by
  obtain ⟨hlo, hhi⟩ := F64.ne_nan_of_le hband
  rcases F64.le_or_lt hlo hinst with hge | hbelow
  · rcases F64.le_or_lt hinst hhi with hle | habove
    · rw [clampFrequency_of_band hge hle]
      exact ⟨hge, hle⟩
    · rw [clampFrequency_of_above hband habove]
      exact ⟨hband, F64.le_self hhi⟩
  · rw [clampFrequency_of_below hband hbelow]
    exact ⟨F64.le_self hlo, hband⟩

end

/-- Settles O58: the clamp's three places for a number, and its way with a NaN. -/
theorem clampKeepsTheBand : Obligations.ClampKeepsTheBand :=
  fun _ _ _ hband => ⟨fun hnan => by rw [hnan, clampFrequency_nan], clampFrequency_mem_band hband,
    clampFrequency_of_below hband, clampFrequency_of_above hband, clampFrequency_of_band⟩

/-! One step (R246). -/

section
variable {e : Estimator} (x : PerChannel F64)

theorem takeSample_of_filling (h : e.vars.total + 1 < e.const.N) : takeSample e x = fill e x := by
  have hopen : e.vars.total < e.const.N := by omega
  simp [takeSample, hopen, h]

theorem takeSample_of_filled (h : e.vars.total + 1 = e.const.N) : takeSample e x = reanchor (fill e x) := by
  have hopen : e.vars.total < e.const.N := by omega
  simp [takeSample, hopen, h]

theorem takeSample_of_due (hfull : e.const.N ≤ e.vars.total) (hdue : e.const.R ≤ e.vars.sinceRecalc + 1) :
    takeSample e x = reanchor (storeSample e x) := by
  simp [takeSample, recalcDue, hfull.not_gt, hdue]

theorem takeSample_of_not_due (hfull : e.const.N ≤ e.vars.total) (hdue : e.vars.sinceRecalc + 1 < e.const.R) :
    takeSample e x = slide (storeSample e x) x (oldSamples e) := by
  simp [takeSample, recalcDue, hfull.not_gt, hdue.not_ge]

/-- Part A leaves the tracking registers (R246). -/
theorem takeSample_frame (e : Estimator) (x : PerChannel F64) :
    (takeSample e x).vars = { e.vars with
      buf := (takeSample e x).vars.buf
      accRe := (takeSample e x).vars.accRe
      accIm := (takeSample e x).vars.accIm
      wr := (takeSample e x).vars.wr
      total := (takeSample e x).vars.total
      sinceRecalc := (takeSample e x).vars.sinceRecalc } := by
  rcases takeSample_cases e x with ⟨_, h⟩ | ⟨_, _, h⟩ | ⟨_, _, h⟩ | ⟨_, _, h⟩ <;> rw [h] <;> rfl

variable (T : Trig) (ts : I64)

theorem estStep_of_filling (h : e.vars.total + 1 < e.const.N) : estStep T e x ts = (takeSample e x, none) :=
  ((estStep_cases T e x ts).resolve_right fun hfull => by omega).2

theorem estStep_of_full (h : e.const.N ≤ e.vars.total + 1) :
    estStep T e x ts = extractAndTrack T (takeSample e x) ts :=
  ((estStep_cases T e x ts).resolve_left fun hopen => by omega).2

/-- Parts B to D write no buffer, accumulator, index or counter: there a step leaves what its part A left. -/
theorem estStep_sample (e : Estimator) :
    (estStep T e x ts).1.vars.buf = (takeSample e x).vars.buf ∧
      (estStep T e x ts).1.vars.accRe = (takeSample e x).vars.accRe ∧
      (estStep T e x ts).1.vars.accIm = (takeSample e x).vars.accIm ∧
      (estStep T e x ts).1.vars.wr = (takeSample e x).vars.wr ∧
      (estStep T e x ts).1.vars.sinceRecalc = (takeSample e x).vars.sinceRecalc := by
  rcases estStep_cases T e x ts with ⟨_, h⟩ | ⟨_, h⟩
  · rw [h]
    exact ⟨rfl, rfl, rfl, rfl, rfl⟩
  · simp [h, extractAndTrack]

/-- In a full window a step is TRACK on what part A left, with the angle of the reference channel there (R253, R260). -/
theorem estStep_tracks (h : e.const.N ≤ e.vars.total + 1) :
    (estStep T e x ts).1 = track (takeSample e x) (referenceAngle T (takeSample e x)) ts := by
  rw [estStep_of_full x T ts h]
  rfl

/-- A step answers in a full window, when the gate of R261 is open. -/
theorem estStep_answers_iff (e : Estimator) :
    (estStep T e x ts).2.isSome = true ↔
      e.const.N ≤ e.vars.total + 1 ∧ (e.vars.total + 1 - e.const.N) % e.const.M = 0 := by
  rcases estStep_cases T e x ts with ⟨hlt, h⟩ | ⟨hge, h⟩
  · simp [h, hlt]
  · simp [h, hge, extractAndTrack, publishes]

/-- The answer of a step that publishes (R252, R253, R262). -/
theorem estStep_answer {est : PhaseEstimate} (h : (estStep T e x ts).2 = some est) :
    est = { frequency := (estStep T e x ts).1.vars.smoothedFreq
            dFdt := (estStep T e x ts).1.vars.rocof
            angle := PerChannel.ofFn (relativeAngle T (takeSample e x))
            magnitude := PerChannel.ofFn (magnitude (takeSample e x)) } := by
  rcases estStep_cases T e x ts with ⟨_, hstep⟩ | ⟨_, hstep⟩
  · rw [hstep] at h
    cases h
  · rw [hstep] at h ⊢
    exact (Option.some.inj (Option.ite_none_right_eq_some.mp h).2).symm

end

/-- Settles O52: the tracked angle and the published values are read off the accumulators part A left, which TRACK
does not write. -/
theorem estStepPublishesEveryMth : Obligations.EstStepPublishesEveryMth := by
  intro T e x ts hfull
  obtain ⟨-, hre, him, -⟩ := estStep_sample x T ts e
  dsimp only
  rw [hre, him]
  refine ⟨?_, ?_, fun est hest => ?_⟩
  · rw [estStep_tracks x T ts hfull, referenceAngle, takeSample_const]
  · rw [estStep_answers_iff, and_iff_right hfull]
  · obtain rfl := estStep_answer x T ts hest
    refine ⟨rfl, rfl, fun c => ?_, fun c => ?_⟩
    · rw [perChannel_get_ofFn, magnitude, takeSample_const]
    · rw [perChannel_get_ofFn, relativeAngle, referenceAngle, takeSample_const, normalize]

/-- The sample taken out is the buffer's entry at the write index, under the estimator's invariant (R84). -/
theorem oldSamples_of_wf {e : Estimator} (hwf : e.wf = true) (c : Channel) :
    (oldSamples e).get c = (e.vars.buf.get c).getD e.vars.wr F64.zero := by
  obtain ⟨hN, -, -, -, -, hbuf, hwr, -⟩ := estimator_wf_iff.mp hwf
  refine oldSamples_get ?_ F64.zero
  rw [hbuf, hwr]
  exact Nat.mod_lt _ hN

/-- Settles O51: the four ways of part A, and TRACK after it in a full window. -/
theorem estStepRecomputesOnSchedule : Obligations.EstStepRecomputesOnSchedule := by
  intro e x ts s hwf
  obtain ⟨hbuf, hre, him, hwr, hsince⟩ := estStep_sample x Trig.block ts e
  refine ⟨(estStep Trig.block e x ts).1, (estStep Trig.block e x ts).2, rfl, rfl, estStep_const Trig.block e x ts,
    estStep_total Trig.block e x ts, ?_, fun c => ?_, fun hopen => ?_, fun hfilled => ?_, fun hfull hdue => ?_,
    fun hfull hdue => ?_, fun hfull => ⟨takeSample e x, rfl, takeSample_const e x, ?_, ?_⟩⟩
  · rw [hwr, takeSample_wr]
  · rw [hbuf, takeSample_buf]
  · rw [estStep_of_filling x Trig.block ts hopen, takeSample_of_filling x hopen]
    exact ⟨rfl, rfl⟩
  · rw [hsince, hre, him, takeSample_of_filled x hfilled]
    exact ⟨rfl, rfl, rfl⟩
  · have hrecompute : (recompute (estStep Trig.block e x ts).1).vars.accRe = (takeSample e x).vars.accRe ∧
        (recompute (estStep Trig.block e x ts).1).vars.accIm = (takeSample e x).vars.accIm := by
      constructor <;> refine perChannel_ext fun c => ?_
      · rw [recompute_accRe, estStep_const, hbuf, hwr, takeSample_of_due x hfull hdue]
        simp
      · rw [recompute_accIm, estStep_const, hbuf, hwr, takeSample_of_due x hfull hdue]
        simp
    obtain ⟨hsumRe, hsumIm⟩ := hrecompute
    rw [hsince, hre, him, hsumRe, hsumIm, takeSample_of_due x hfull hdue]
    exact ⟨rfl, rfl, rfl⟩
  · rw [hsince, hre, him, takeSample_of_not_due x hfull hdue]
    exact ⟨rfl, oldSamples e, oldSamples_of_wf hwf, rfl, rfl⟩
  · rw [hbuf, hre, him, hwr, hsince, estStep_total, ← takeSample_total e x]
    exact takeSample_frame e x
  · rw [hre, him, estStep_tracks x Trig.block ts hfull, referenceAngle, takeSample_const]
    rfl

/-- Settles O57: whichever of its four ways part A takes, both estimators take the same one, and the lane's equations
name nothing of the other lanes. -/
theorem lanesDoNotInteract : Obligations.LanesDoNotInteract := by
  intro e e' x x' c hconst htotal hwr hsince hbuf hre him hx
  rw [takeSample_buf, takeSample_buf, hbuf, hwr, hx]
  refine ⟨rfl, ?_⟩
  rcases takeSample_cases e x with ⟨h, ht⟩ | ⟨h, h', ht⟩ | ⟨h, h', ht⟩ | ⟨h, h', ht⟩ <;>
    rw [hconst, htotal] at h
  · rw [ht, takeSample_of_filling x' h]
    simp [hconst, htotal, hre, him, hx]
  · rw [hconst, htotal] at h'
    rw [ht, takeSample_of_filled x' (by omega)]
    simp [hconst, hwr, hbuf, hx]
  · rw [hconst, hsince] at h'
    rw [ht, takeSample_of_due x' h h']
    simp [hconst, hwr, hbuf, hx]
  · rw [hconst, hsince] at h'
    rw [ht, takeSample_of_not_due x' h h']
    simp [hconst, oldSamples, hwr, hbuf, hre, him, hx]

/-! Runs (R149): what every step keeps, a run keeps. -/

section
variable {T : Trig} {e : Estimator}

theorem estRun_preserves {P : Estimator → Prop} (hstep : ∀ e x ts, P e → P (estStep T e x ts).1)
    (ins : List (PerChannel F64 × I64)) (he : P e) : P (estRun T e ins).1 := by
  induction ins generalizing e with
  | nil => exact he
  | cons p rest ih => exact ih (hstep e p.1 p.2 he)

theorem estRun_const (T : Trig) (e : Estimator) (ins : List (PerChannel F64 × I64)) :
    (estRun T e ins).1.const = e.const :=
  estRun_preserves (P := fun e' => e'.const = e.const) (fun e' x ts h => (estStep_const T e' x ts).trans h) ins rfl

theorem estRun_total (T : Trig) (e : Estimator) (ins : List (PerChannel F64 × I64)) :
    (estRun T e ins).1.vars.total = e.vars.total + ins.length := by
  induction ins generalizing e with
  | nil => rfl
  | cons p rest ih =>
    rw [estRun, ih, estStep_total, List.length_cons]
    omega

/-- The answer in place `j` of a run is there when the gate is open at that step (R240, R261). -/
theorem estRun_answers_iff (T : Trig) (e : Estimator) (ins : List (PerChannel F64 × I64)) {j : Nat}
    (hj : j < ins.length) :
    ∃ r, (estRun T e ins).2[j]? = some r ∧ (r.isSome = true ↔ e.const.N ≤ e.vars.total + (j + 1) ∧
      (e.vars.total + (j + 1) - e.const.N) % e.const.M = 0) := by
  induction ins generalizing e j with
  | nil => cases hj
  | cons p rest ih =>
    cases j with
    | zero => exact ⟨_, rfl, estStep_answers_iff p.1 T p.2 e⟩
    | succ j =>
      obtain ⟨r, hr, hiff⟩ := ih (estStep T e p.1 p.2).1 (Nat.lt_of_succ_lt_succ hj)
      rw [estStep_const, estStep_total, Nat.add_assoc, Nat.add_comm 1] at hiff
      exact ⟨r, hr, hiff⟩

end

/-- Settles O53: the gate at step `j + 1` of a run from construction, when `total` is `j + 1`. -/
theorem windowFillGatesEstimates : Obligations.WindowFillGatesEstimates := by
  intro T b ins _ N M j hj
  obtain ⟨r, hr, hiff⟩ := estRun_answers_iff T (estBuild T b) ins hj
  have hN : (estBuild T b).const.N = N := by
    simp only [N, ← samplesPerCycle_eq]
    rfl
  have htotal : (estBuild T b).vars.total = 0 := rfl
  rw [hN, htotal, Nat.zero_add] at hiff
  exact ⟨r, hr, hiff⟩

/-- Settles O54: a run keeps the constants, from which EST.RESET makes the state built. -/
theorem resetReplaysIdentically : Obligations.ResetReplaysIdentically := by
  intro T b ins again
  have hreset : estReset (estRun T (estBuild T b) ins).1 = estBuild T b := estReset_of_const (estRun_const T _ ins)
  exact ⟨hreset, by rw [hreset]⟩

/-! The recalculation counter (R250). -/

/-- In a full window the counter counts the steps since the fill, modulo the interval. -/
def RecalcOnSchedule (e : Estimator) : Prop :=
  1 ≤ e.const.R ∧ (e.const.N ≤ e.vars.total → e.vars.sinceRecalc = (e.vars.total - e.const.N) % e.const.R)

/-- The remainder goes up by one until it reaches the modulus, and starts again from 0. -/
theorem succ_mod_eq {d R : Nat} (hR : 1 ≤ R) : (d + 1) % R = if R ≤ d % R + 1 then 0 else d % R + 1 := by
  have hlt := Nat.mod_lt d hR
  rw [← Nat.mod_add_mod]
  split
  · rw [show d % R + 1 = R by omega, Nat.mod_self]
  · exact Nat.mod_eq_of_lt (by omega)

theorem estStep_recalcOnSchedule (T : Trig) (e : Estimator) (x : PerChannel F64) (ts : I64) (h : RecalcOnSchedule e) :
    RecalcOnSchedule (estStep T e x ts).1 := by
  obtain ⟨hR, hsched⟩ := h
  obtain ⟨-, -, -, -, hsince⟩ := estStep_sample x T ts e
  unfold RecalcOnSchedule
  rw [estStep_const, estStep_total, hsince]
  refine ⟨hR, fun hfull => ?_⟩
  by_cases hnow : e.vars.total + 1 = e.const.N
  · rw [takeSample_of_filled x hnow, reanchor_sinceRecalc, hnow, Nat.sub_self, Nat.zero_mod]
  · have hbefore : e.const.N ≤ e.vars.total := by omega
    rw [Nat.sub_add_comm hbefore, succ_mod_eq hR, ← hsched hbefore]
    split
    · next hdue => rw [takeSample_of_due x hbefore hdue, reanchor_sinceRecalc]
    · next hdue => rw [takeSample_of_not_due x hbefore (by omega), slide_sinceRecalc, storeSample_sinceRecalc]

/-- An estimator built from a legal bundle is on schedule: its interval is not empty, its window and its counter are. -/
theorem estBuild_recalcOnSchedule (T : Trig) {b : ParamBundle} (h : LegalBundle none b) :
    RecalcOnSchedule (estBuild T b) := by
  obtain ⟨-, -, hR, -⟩ := estimator_wf_iff.mp (estBuild_wf T (validBundle_iff.mpr h))
  refine ⟨hR, fun _ => ?_⟩
  have hzero : (estBuild T b).vars.total - (estBuild T b).const.N = 0 := Nat.zero_sub _
  rw [hzero, Nat.zero_mod]
  rfl

/-- Settles O55: the schedule is kept along the run, and `total` counts its steps. -/
theorem recalcCounterFollowsTotal : Obligations.RecalcCounterFollowsTotal := by
  intro T b ins hlegal
  have htotal : (estRun T (estBuild T b) ins).1.vars.total = ins.length :=
    (estRun_total T _ ins).trans (Nat.zero_add _)
  obtain ⟨-, hsched⟩ := estRun_preserves (estStep_recalcOnSchedule T) ins (estBuild_recalcOnSchedule T hlegal)
  rw [htotal] at hsched
  exact ⟨htotal, hsched⟩

/-! The recomputation at the fill (R247, R248, R251). -/

/-- The first `n` terms of a direct sum, of the buffer's entries in their places and combined by `op`: what `n` fills
accumulate. -/
def partialSum (op : F64 → F64 → F64) (buf table : List F64) (n : Nat) : F64 :=
  (List.range n).foldl (fun acc i => op acc (F64.mul (entry buf i) (entry table i))) F64.zero

/-- One fill adds one term: it writes a place of the buffer that the terms before do not read. -/
theorem partialSum_set (op : F64 → F64 → F64) (table : List F64) (x : F64) {buf : List F64} {n : Nat}
    (hn : n < buf.length) :
    partialSum op (buf.set n x) table (n + 1) = op (partialSum op buf table n) (F64.mul x (entry table n)) := by
  have hprefix : partialSum op (buf.set n x) table n = partialSum op buf table n :=
    List.foldl_ext _ _ _ fun acc i hi => by
      have hne : n ≠ i := (List.mem_range.mp hi).ne'
      rw [entry, List.getD_eq_getElem?_getD, List.getElem?_set_ne hne, ← List.getD_eq_getElem?_getD, ← entry]
  have hlast : entry (buf.set n x) n = x := entry_of_getElem? (List.getElem?_set_self hn)
  rw [← hprefix, partialSum, List.range_succ, List.foldl_append, List.foldl_cons, List.foldl_nil, hlast]
  rfl

/-- With the write index back at 0 the oldest sample stands in place 0, and the direct sum is the sum of the fills. -/
theorem dftTerm_zero {buf table : List F64} {N n : Nat} (hn : n < N) :
    dftTerm buf table 0 N n = F64.mul (entry buf n) (entry table n) := by
  rw [dftTerm, Nat.zero_add, Nat.mod_eq_of_lt hn]

theorem dftRe_zero (buf table : List F64) (N : Nat) : dftRe buf table 0 N = partialSum F64.add buf table N :=
  List.foldl_ext _ _ _ fun _ _ hn => by rw [dftTerm_zero (List.mem_range.mp hn)]

theorem dftIm_zero (buf table : List F64) (N : Nat) : dftIm buf table 0 N = partialSum F64.sub buf table N :=
  List.foldl_ext _ _ _ fun _ _ hn => by rw [dftTerm_zero (List.mem_range.mp hn)]

/-- While the window fills, the accumulators hold the sums over the samples stored. -/
structure HoldsPartialSums (e : Estimator) : Prop where
  wr : e.vars.wr = e.vars.total % e.const.N
  buf_length : ∀ c, (e.vars.buf.get c).length = e.const.N
  accRe : ∀ c, e.vars.accRe.get c = partialSum F64.add (e.vars.buf.get c) e.const.cosT e.vars.total
  accIm : ∀ c, e.vars.accIm.get c = partialSum F64.sub (e.vars.buf.get c) e.const.sinT e.vars.total

theorem estBuild_holdsPartialSums (T : Trig) (b : ParamBundle) : HoldsPartialSums (estBuild T b) where
  wr := (Nat.zero_mod _).symm
  buf_length c := by simp [estBuild, estInitialVars]
  accRe c := perChannel_get_ofFn _ c
  accIm c := perChannel_get_ofFn _ c

theorem fill_holdsPartialSums {e : Estimator} (x : PerChannel F64) (h : HoldsPartialSums e)
    (hopen : e.vars.total < e.const.N) : HoldsPartialSums (fill e x) := by
  obtain ⟨hwr, hlen, hre, him⟩ := h
  have hplace : e.vars.wr = e.vars.total := hwr.trans (Nat.mod_eq_of_lt hopen)
  have hin : ∀ c, e.vars.total < (e.vars.buf.get c).length := fun c => by rwa [hlen]
  refine ⟨?_, fun c => ?_, fun c => ?_, fun c => ?_⟩
  · rw [fill_wr, fill_total, fill_const, hplace]
  · rw [fill_buf, List.length_set, hlen, fill_const]
  · rw [fill_accRe, fill_buf, fill_const, fill_total, hplace, partialSum_set _ _ _ (hin c), hre]
  · rw [fill_accIm, fill_buf, fill_const, fill_total, hplace, partialSum_set _ _ _ (hin c), him]

/-- Fills up to a full window, and no further, keep it. -/
theorem foldl_fill_holdsPartialSums (xs : List (PerChannel F64)) {e : Estimator} (h : HoldsPartialSums e)
    (hroom : e.vars.total + xs.length ≤ e.const.N) :
    HoldsPartialSums (xs.foldl fill e) ∧ (xs.foldl fill e).vars.total = e.vars.total + xs.length := by
  induction xs generalizing e with
  | nil => exact ⟨h, rfl⟩
  | cons x rest ih =>
    rw [List.length_cons] at hroom ⊢
    have hroom' : (fill e x).vars.total + rest.length ≤ (fill e x).const.N := by
      rw [fill_total, fill_const]
      omega
    obtain ⟨hsums, htotal⟩ := ih (fill_holdsPartialSums x h (by omega)) hroom'
    rw [fill_total] at htotal
    exact ⟨hsums, htotal.trans (by omega)⟩

theorem foldl_fill_const (xs : List (PerChannel F64)) (e : Estimator) : (xs.foldl fill e).const = e.const := by
  induction xs generalizing e with
  | nil => rfl
  | cons x rest ih => exact ih (fill e x)

/-- At the fill the write index is 0 again, and RECOMPUTE sums the same terms in the same order. -/
theorem recompute_of_holdsPartialSums {e : Estimator} (h : HoldsPartialSums e) (hfull : e.vars.total = e.const.N) :
    (recompute e).vars.accRe = e.vars.accRe ∧ (recompute e).vars.accIm = e.vars.accIm := by
  have hwr : e.vars.wr = 0 := by rw [h.wr, hfull, Nat.mod_self]
  refine ⟨perChannel_ext fun c => ?_, perChannel_ext fun c => ?_⟩
  · rw [recompute_accRe, hwr, dftRe_zero, h.accRe, hfull]
  · rw [recompute_accIm, hwr, dftIm_zero, h.accIm, hfull]

/-- Settles O56: after as many fills as the window has places the accumulators are the direct sums. -/
theorem fillCompletionKeepsAccumulators : Obligations.FillCompletionKeepsAccumulators := by
  intro T b xs _ e hlen
  have hzero : (estBuild T b).vars.total = 0 := rfl
  have hconst : e.const = (estBuild T b).const := foldl_fill_const xs _
  obtain ⟨hsums, htotal⟩ := foldl_fill_holdsPartialSums xs (estBuild_holdsPartialSums T b)
    (by rw [hzero, Nat.zero_add, ← hconst, hlen])
  exact recompute_of_holdsPartialSums hsums (by rw [htotal, hzero, Nat.zero_add, hlen])

/-! A NaN frequency (R266). -/

/-- A moving average takes a NaN from its last value and from its new one (R258). -/
@[simp] theorem ema_nan (alpha x : F64) : ema alpha x .nan = .nan := by rw [ema, F64.mul_nan, F64.add_nan]
@[simp] theorem ema_nan_input (alpha y : F64) : ema alpha .nan y = .nan := by rw [ema, F64.mul_nan, F64.nan_add]

/-- The hypotheses of R266: the window full, the frequency seeded and NaN, a previous phase held. -/
structure RunsOnNan (e : Estimator) : Prop where
  full : e.const.N ≤ e.vars.total
  seeded : e.vars.freqSeeded = true
  freq : e.vars.smoothedFreq = .nan
  phase : e.vars.prevPhase.isSome = true

/-- TRACK with a previous phase is the smoothing of some value over some time step. -/
theorem track_eq_smooth {e : Estimator} (a : F64) (ts : I64) (h : e.vars.prevPhase.isSome = true) :
    ∃ inst dt, track e a ts =
      ⟨e.const, { smooth e.const e.vars inst dt with prevPhase := some a, prevTs := some ts }⟩ := by
  obtain ⟨ph, hph⟩ := Option.isSome_iff_exists.mp h
  exact ⟨_, _, by rw [track, hph]⟩

/-- Both moving averages carry the NaN on, whatever the new value and the time step are. -/
theorem track_of_nan {e : Estimator} (a : F64) (ts : I64) (h : RunsOnNan e) :
    RunsOnNan (track e a ts) ∧ (track e a ts).vars.rocof = .nan := by
  obtain ⟨inst, dt, htrack⟩ := track_eq_smooth a ts h.phase
  obtain ⟨hfreq, hrocof⟩ := smooth_of_seeded (k := e.const) inst dt h.seeded
  rw [h.freq, ema_nan] at hfreq
  rw [hfreq, h.freq, F64.sub_nan, F64.nan_div, ema_nan_input] at hrocof
  refine ⟨⟨?_, ?_, ?_, rfl⟩, ?_⟩
  · rw [track_const, track_total]
    exact h.full
  · rw [htrack]
    exact smooth_freqSeeded inst dt
  · rw [htrack]
    exact hfreq
  · rw [htrack]
    exact hrocof

theorem takeSample_runsOnNan {e : Estimator} (x : PerChannel F64) (h : RunsOnNan e) : RunsOnNan (takeSample e x) where
  full := by
    rw [takeSample_const, takeSample_total]
    exact Nat.le_succ_of_le h.full
  seeded := by
    rw [takeSample_frame]
    exact h.seeded
  freq := by
    rw [takeSample_frame]
    exact h.freq
  phase := by
    rw [takeSample_prevPhase]
    exact h.phase

theorem estStep_of_nan (T : Trig) (x : PerChannel F64) (ts : I64) {e : Estimator} (h : RunsOnNan e) :
    RunsOnNan (estStep T e x ts).1 ∧ (estStep T e x ts).1.vars.rocof = .nan := by
  rw [estStep_tracks x T ts (Nat.le_succ_of_le h.full)]
  exact track_of_nan _ ts (takeSample_runsOnNan x h)

/-- Settles O59: every step of the run leaves a NaN frequency and, with it, a NaN ROCOF. -/
theorem nanFrequencyPersists : Obligations.NanFrequencyPersists := by
  intro T e ins hfull hseeded hfreq hphase
  have hnan : RunsOnNan e := ⟨hfull, hseeded, hfreq, hphase⟩
  cases ins with
  | nil => exact ⟨hfreq, fun hne => absurd rfl hne⟩
  | cons p rest =>
    obtain ⟨hrun, hrocof⟩ := estRun_preserves (T := T) (P := fun e => RunsOnNan e ∧ e.vars.rocof = .nan)
      (fun _ x ts h => estStep_of_nan T x ts h.1) rest (estStep_of_nan T p.1 p.2 hnan)
    exact ⟨hrun.freq, fun _ => hrocof⟩

end Sys2Proof.Machine
end

section
/-! PROOF. A wire frame is all or nothing (60_exceptions R316): DATA and CFG either take the exception entry or have
the whole effect of a body that decodes (44_data_frame R211, 43_config_frame R202). -/

namespace Sys2Proof.Machine

section
variable {img : List Byte} {p : Nat} {h : Header} {s t : State}

/-- DATA takes an exception or leaves what the whole packet decodes to. -/
theorem exec_data_next : exec (.data img p h) s = .next t ↔
    dataFrame img p h s = .ok t ∨ ∃ r, dataFrame img p h s = .error r ∧ t = takeException r s := finish_next

/-- CFG takes an exception or leaves what the whole configuration frame decodes to. -/
theorem exec_cfg_next : exec (.cfg img p h) s = .next t ↔
    configFrame img p h s = .ok t ∨ ∃ r, configFrame img p h s = .error r ∧ t = takeException r s := finish_next

end

/-- Everything a wire frame can do: take an exception, or decode as the data or configuration frame it is. -/
theorem exec_wireFrame_cases {i : Instr} {s t : State} (hkind : i.kind = .wireFrame) (ht : exec i s = .next t) :
    (∃ r, t = takeException r s) ∨
    (∃ img p h, i = .data img p h ∧ dataFrame img p h s = .ok t) ∨
    ∃ img p h, i = .cfg img p h ∧ configFrame img p h s = .ok t := by
  cases i with
  | data img p h =>
    rcases exec_data_next.mp ht with hdec | ⟨r, -, hexc⟩
    · exact .inr (.inl ⟨img, p, h, rfl, hdec⟩)
    · exact .inl ⟨r, hexc⟩
  | cfg img p h =>
    rcases exec_cfg_next.mp ht with hdec | ⟨r, -, hexc⟩
    · exact .inr (.inr ⟨img, p, h, rfl, hdec⟩)
    · exact .inl ⟨r, hexc⟩
  | _ => cases hkind

/-- Settles O35, by the three things a wire frame can do: the exception entry keeps all but the framing state and OUT,
and a body that decodes appends its own events only and leaves the framing state alone. -/
theorem frameIsAllOrNothing : Obligations.FrameIsAllOrNothing := by
  intro i s t hkind ht
  rcases exec_wireFrame_cases hkind ht with ⟨r, rfl⟩ | ⟨img, p, h, -, hdata⟩ | ⟨img, p, h, -, hcfg⟩
  · exact .inl ⟨r.exc, r.info, takeException_eq r s⟩
  · obtain ⟨-, fs, hcount, hframe⟩ := dataFrame_ok hdata
    rw [hframe]
    exact .inr ⟨rfl, rfl, .inr ⟨fs, hcount, rfl⟩⟩
  · obtain ⟨f, -, rfl⟩ := configFrame_ok.mp hcfg
    exact .inr ⟨rfl, rfl, .inl ⟨f, rfl⟩⟩

end Sys2Proof.Machine
end
